-- ==== Sys2Proof/Word.lean ====
section
/-! DEFINITION. The word types of LIR-CFS (spec/00_scope.md rule R4, spec/10_state.md rules R19, R26). -/

namespace Sys2Proof

/-- REGW = 32: a host-visible register and the data of a host access (rule R4). -/
abbrev Word := BitVec 32

/-- CHW = 8: one colour channel; also a saturation, value or percent word (rule R4). -/
abbrev Byte := BitVec 8

/-- PIXW = 24: a pixel word, red in [23:16], green in [15:8], blue in [7:0] (rule R42). -/
abbrev Pixel := BitVec 24

/-- A register number of the host register space, 6 bits, 0 to 63 (rule R41). -/
abbrev RegNum := BitVec 6

end Sys2Proof
end

