-- ==== Sys2Proof/Config.lean ====
section
/-! DEFINITION. The implementation parameters of spec/00_scope.md rule R4 that rules of the spec compute with, and the
one parameter the spec leaves OPEN. -/

namespace Sys2Proof.Config

/-- TURN: 360 degrees in hue units of 1/128 degree (rule R4). -/
def turn : Nat := 46080

/-- SECTOR: 60 degrees in hue units (rule R4). -/
def sector : Nat := 7680

/-- PCT_MAX: the largest percent that scales without overflow (rule R4). -/
def pctMax : Nat := 100

/-- NCOL_MAX: the number of entries of the colour table (rule R4). -/
def ncolMax : Nat := 16

/-- INTERVAL_UNIT, the real duration of one count of INTERVAL: the one OPEN parameter
(spec/92_eei_decisions.md D19).  It has no body, so nothing can be proved of its value; no rule reads it. -/
opaque intervalUnit : Nat

end Sys2Proof.Config
end

