-- ==== Sys2Proof/Syntax.lean ====
section
/-! DEFINITION. The instructions of LIR-CFS (spec/30_encoding.md, spec/opcode_table.json: twelve rows, twelve
constructors), the host access triple (rule R69) and the five decoded word formats (rules R60 to R65, R69). -/

namespace Sys2Proof

/-- One constructor per row of spec/opcode_table.json.  A pattern is "what the sequencer executes every tick", START and
CANCEL are the host commands, HSV2RGB and SCALE the function-unit operations, RD and WR the host register accesses
(spec/00_scope.md, the table after rule R1). -/
inductive Instr where
  /-- Pattern 0 (rule R101). -/
  | off
  /-- Pattern 1 (rule R102). -/
  | static
  /-- Pattern 2 (rule R103). -/
  | wipe
  /-- Pattern 3 (rule R104). -/
  | brsync
  /-- Pattern 4 (rule R105). -/
  | broff
  /-- Pattern 5 (rule R106). -/
  | flash
  /-- Host command 0x00000001 (rule R122). -/
  | start
  /-- Host command 0x00000002 (rule R123). -/
  | cancel
  /-- The function unit HSV2RGB on a hue, a saturation and a value word (rules R64, R83, R85). -/
  | hsv2rgb (h : BitVec 16) (sat : Byte) (val : Byte)
  /-- The function unit SCALE on a pixel and a percent word (rules R65, R88, R89). -/
  | scale (pix : Pixel) (pct : Byte)
  /-- Host read of register `n` (rule R44). -/
  | rd (n : RegNum)
  /-- Host write of `v` to register `n` (rule R45). -/
  | wr (n : RegNum) (v : Word)
  deriving DecidableEq, Repr

/-- The kind of a host access; the table numbers RD 0 and WR 1 (rule R69). -/
inductive Kind where
  | rd
  | wr
  deriving DecidableEq, Repr

/-- A host access, the triple (kind, n, v) of rule R69; `v` means nothing in a read. -/
structure Access where
  kind : Kind
  n : RegNum
  v : Word
  deriving DecidableEq, Repr

/-- A word together with the format the block decodes it in; the format is named by the register that takes the word
(rule R60), not by the word itself. -/
inductive Coded where
  /-- Format P, a pattern word (rule R61). -/
  | p (w : Word)
  /-- Format C, a command word (rule R63). -/
  | c (w : Word)
  /-- Format H, the operand word of HSV2RGB (rule R64). -/
  | h (w : Word)
  /-- Format S, the operand word of SCALE (rule R65). -/
  | s (w : Word)
  /-- Format A, a host access triple (rule R69) laid out as one number: bit 0 the kind, as spec/opcode_table.json numbers
  it; the register number in [6:1] and the data word in [38:7] are a DESIGN CHOICE (log entry 7). -/
  | a (t : BitVec 39)
  deriving DecidableEq, Repr

end Sys2Proof
end

