-- ==== Sys2Proof/WellFormed.lean ====
section
/-! DEFINITION. Which instructions are the block's own reading of what the host sends.  Three checks: a write of a command
word to CMD is the command (rules R23, R63), a read of CONV_OUT is HSV2RGB on the word in CONV_IN and a read of SCALE_OUT is
SCALE on the word in SCALE_IN (rule R60).  The refused terms are second spellings only: `exec` gives each the same effect as
the first spelling.  Ranges (`n` at most 63, `v` below 2^32, rule R43) hold by the types. -/

namespace Sys2Proof

/-- `wr n v` spells a command: it is `WR CMD, 0x00000001` or `WR CMD, 0x00000002` (rule R70). -/
def isCommandWrite (n : RegNum) (v : Word) : Bool := n == 0 && (v == 1 || v == 2)

/-- `rd n` runs a function unit: CONV_OUT is register 12, SCALE_OUT register 14 (rule R41). -/
def isUnitRead (n : RegNum) : Bool := n == 12 || n == 14

/-- The instruction is spelled as the block itself decodes it. -/
def Instr.wellFormed : Instr → Bool
  | .off => true
  | .static => true
  | .wipe => true
  | .brsync => true
  | .broff => true
  | .flash => true
  | .start => true
  | .cancel => true
  | .hsv2rgb _ _ _ => true
  | .scale _ _ => true
  | .rd n => !isUnitRead n
  | .wr n v => !isCommandWrite n v

end Sys2Proof
end

