-- ==== Sys2Proof/Decode.lean ====
section
/-! DEFINITION. Decoding and encoding (spec/30_encoding.md rules R60 to R65, R69).  `decode` is total: every word of every
format is an instruction or is rejected by name. -/

namespace Sys2Proof

/-- Why a word is no instruction (rule R68). -/
inductive DecodeError where
  /-- A pattern word whose PAT is 6 or 7 (rules R62, R68). -/
  | reservedPattern (pat : BitVec 3)
  /-- A command word other than 0x00000001 and 0x00000002 (rules R63, R68). -/
  | reservedCommand (w : Word)
  deriving DecidableEq, Repr

/-- PAT = PATTERN[2:0]; bits [31:3] take no part in the decode (rule R61). -/
def patternCode (w : Word) : BitVec 3 := w.extractLsb' 0 3

/-- Format P, the codes of rule R62. -/
def decodePattern (w : Word) : Except DecodeError Instr :=
  if patternCode w = 0 then .ok .off
  else if patternCode w = 1 then .ok .static
  else if patternCode w = 2 then .ok .wipe
  else if patternCode w = 3 then .ok .brsync
  else if patternCode w = 4 then .ok .broff
  else if patternCode w = 5 then .ok .flash
  else .error (.reservedPattern (patternCode w))

/-- Format C: all 32 bits take part (rule R63). -/
def decodeCommand (w : Word) : Except DecodeError Instr :=
  if w = 1 then .ok .start
  else if w = 2 then .ok .cancel
  else .error (.reservedCommand w)

/-- The three fields of an HSV2RGB operand word: H = [15:0], S = [23:16], V = [31:24] (rule R64). -/
def hueField (w : Word) : BitVec 16 := w.extractLsb' 0 16

/-- S = CONV_IN[23:16] (rule R64). -/
def satField (w : Word) : Byte := w.extractLsb' 16 8

/-- V = CONV_IN[31:24] (rule R64). -/
def valField (w : Word) : Byte := w.extractLsb' 24 8

/-- PIX24 = SCALE_IN[23:0] (rule R65). -/
def pixField (w : Word) : Pixel := w.extractLsb' 0 24

/-- PCT = SCALE_IN[31:24] (rule R65). -/
def pctField (w : Word) : Byte := w.extractLsb' 24 8

/-- The operand word `V<<24 | S<<16 | H` (rule R64). -/
def hsvWord (h : BitVec 16) (sat val : Byte) : Word := val ++ sat ++ h

/-- The operand word `PCT<<24 | PIX24` (rule R65). -/
def scaleWord (pix : Pixel) (pct : Byte) : Word := pct ++ pix

/-- The kind as a bit: RD 0, WR 1 (rule R69). -/
def Kind.bit : Kind → BitVec 1
  | .rd => 0
  | .wr => 1

/-- The access triple as one number (log entry 7 for the places of `n` and `v`). -/
def Access.pack (a : Access) : BitVec 39 := a.v ++ a.n ++ a.kind.bit

/-- The triple of a packed access. -/
def unpackAccess (t : BitVec 39) : Access :=
  { kind := if t.extractLsb' 0 1 = 0 then .rd else .wr
    n := t.extractLsb' 1 6
    v := t.extractLsb' 7 32 }

/-- Format A: the kind alone decides (rule R69); a read carries no data word. -/
def decodeAccess (t : BitVec 39) : Instr :=
  match (unpackAccess t).kind with
  | .rd => .rd (unpackAccess t).n
  | .wr => .wr (unpackAccess t).n (unpackAccess t).v

/-- The instruction a word stands for, in the format the block reads it in. -/
def decode : Coded → Except DecodeError Instr
  | .p w => decodePattern w
  | .c w => decodeCommand w
  | .h w => .ok (.hsv2rgb (hueField w) (satField w) (valField w))
  | .s w => .ok (.scale (pixField w) (pctField w))
  | .a t => .ok (decodeAccess t)

/-- The words of an instruction: ignored bits, and the data word of a read, are zero. -/
def encode : Instr → Coded
  | .off => .p 0
  | .static => .p 1
  | .wipe => .p 2
  | .brsync => .p 3
  | .broff => .p 4
  | .flash => .p 5
  | .start => .c 1
  | .cancel => .c 2
  | .hsv2rgb h sat val => .h (hsvWord h sat val)
  | .scale pix pct => .s (scaleWord pix pct)
  | .rd n => .a (Access.pack ⟨.rd, n, 0⟩)
  | .wr n v => .a (Access.pack ⟨.wr, n, v⟩)

/-- The word with the bits its format ignores cleared: [31:3] of a pattern word (rule R61), the data word of a read
(rule R69).  Formats C, H and S ignore no bit. -/
def Coded.canonical : Coded → Coded
  | .p w => .p ((patternCode w).setWidth 32)
  | .c w => .c w
  | .h w => .h w
  | .s w => .s w
  | .a t => if t.extractLsb' 0 1 = 0 then .a (t.setWidth 7 |>.setWidth 39) else .a t

/-- Why numbers spell no word of the block (rule R43).  Every width is checked, nothing is cut. -/
inductive SpellError where
  /-- A register number of 64 or more. -/
  | registerNumber (n : Nat)
  /-- A data word of 2^32 or more. -/
  | dataWord (v : Nat)
  /-- A word of 2^32 or more for a register that takes 32 bits (rule R60). -/
  | registerWord (w : Nat)
  deriving DecidableEq, Repr

/-- The access that a kind and two numbers spell: `n` from 0 to 63 and `v` below 2^32; anything else is refused as not spelling
an access (rule R43). -/
def spellAccess (kind : Kind) (n v : Nat) : Except SpellError Access :=
  if 64 ≤ n then .error (.registerNumber n)
  else if 2 ^ 32 ≤ v then .error (.dataWord v)
  else .ok ⟨kind, BitVec.ofNat 6 n, BitVec.ofNat 32 v⟩

/-- The access that a number spells in the layout of log entry 7: the kind in bit 0, the register number in the six bits above
it, and ALL the bits above these are the data word. -/
def spellPacked (w : Nat) : Except SpellError Access :=
  spellAccess (if w % 2 = 0 then .rd else .wr) (w / 2 % 64) (w / 128)

/-- Which format a word of spec/opcode_table.json is read in when all that is known of it is its length and its bits; a number
too long for its format is refused (rules R43, R60).
The table gives words of DIFFERENT formats the same bits (OFF and RD; STATIC and WR; START, HSV2RGB and SCALE), so the format is
a choice (log entry 8) and no rule: one byte is an access triple if only its bit 0 may be set, else a pattern word; up to
four bytes are a command word if they are one, a pattern word for 3, 4 and 5, else an HSV2RGB operand word; more bytes are
an access triple. -/
def tableCoded (nbits w : Nat) : Except SpellError Coded :=
  if nbits ≤ 32 ∧ 2 ^ 32 ≤ w then .error (.registerWord w)
  else if 32 < nbits ∨ (nbits ≤ 8 ∧ w < 2) then
    match spellPacked w with
    | .ok a => .ok (.a a.pack)
    | .error e => .error e
  else if nbits ≤ 8 then .ok (.p (BitVec.ofNat 32 w))
  else if w = 1 ∨ w = 2 then .ok (.c (BitVec.ofNat 32 w))
  else if w = 3 ∨ w = 4 ∨ w = 5 then .ok (.p (BitVec.ofNat 32 w))
  else .ok (.h (BitVec.ofNat 32 w))

/-- The instruction the decoder reads from a word of spec/opcode_table.json, in the format `tableCoded` picks; none if the
number spells no word or the word is no instruction. -/
def decodeTableWord (nbits w : Nat) : Option Instr :=
  match tableCoded nbits w with
  | .ok c =>
    match decode c with
    | .ok i => some i
    | .error _ => none
  | .error _ => none

end Sys2Proof
end

