-- ==== Sys2Proof/Machine/State.lean ====
section
/-! DEFINITION. The whole state of LIR-CFS (spec/10_state.md rule R10) as plain data, its reset values (rule R30), and the
reasons a step can stop. -/

namespace Sys2Proof.Machine

/-- The colour table COLOR or A_COLOR: sixteen entries of 24 bits (rules R19, R24). -/
structure ColorTable where
  entries : List Pixel
  full : entries.length = 16
  deriving DecidableEq, Repr

/-- Every entry 0, the reset value (rule R30). -/
def ColorTable.zero : ColorTable := ⟨List.replicate 16 0, List.length_replicate⟩

/-- The driver state DRV (rule R20); the codes 6 and 7 never occur. -/
inductive Drv where
  | config
  | opening
  | tick
  | emit
  | wait
  | terminated
  deriving DecidableEq, Repr

/-- STATUS.EXIT (rules R22, R140); the codes 5 to 7 never occur. -/
inductive ExitCode where
  | success
  | construct
  | openFailed
  | transport
  | cancelled
  deriving DecidableEq, Repr

/-- STATUS.CAUSE, which construction check failed (rules R22, R141); `noCause` is code 0. -/
inductive Cause where
  | noCause
  | patternCode
  | colourCount
  | flashPeriod
  deriving DecidableEq, Repr

/-- An answer of the Transport Adapter (rule R49). -/
inductive Answer where
  | ok
  | err
  deriving DecidableEq, Repr

/-- An entry of the output history: a request the block emitted or the answer it received (rules R29, R131). -/
inductive OutEvent where
  /-- `emit OpenReq` (rule R122). -/
  | openReq
  /-- The answer to the OpenReq (rule R124). -/
  | openAns (a : Answer)
  /-- `emit FrameOut(frame)` (rule R125). -/
  | frameOut (f : List Pixel)
  /-- The answer to the FrameOut (rule R126). -/
  | transAns (a : Answer)
  deriving DecidableEq, Repr

/-- A move of an agent, a line of the host script of rule R70: a host access, the RESET pin, an answer of the transport, the
timer, or a turn of the sequencer.  DESIGN CHOICE, log entry 1. -/
inductive Event where
  | host (a : Access)
  | reset
  | tOpen (a : Answer)
  | tAns (a : Answer)
  | tmr
  | tick
  deriving DecidableEq, Repr

/-- The configuration registers as the host writes and reads them (rules R11 to R19). -/
structure Cfg where
  /-- PATTERN.PAT (rule R12). -/
  pat : BitVec 3
  /-- LED_COUNT.N (rule R13). -/
  ledCount : BitVec 16
  /-- INTERVAL (rule R14). -/
  interval : Word
  /-- BRIGHT.PCT (rule R15). -/
  bright : Byte
  /-- HUE_RATE.RATE (rule R16). -/
  hueRate : BitVec 16
  /-- ON_TICKS.ON (rule R17). -/
  onTicks : BitVec 16
  /-- OFF_TICKS.OFF (rule R17). -/
  offTicks : BitVec 16
  /-- NCOL (rule R18). -/
  ncol : BitVec 5
  /-- COLOR[0..15], unscaled (rule R19). -/
  color : ColorTable
  deriving DecidableEq, Repr

/-- PATR, the hidden active pattern record, written by START and reset only (rule R24). -/
structure Patr where
  aPat : BitVec 3
  aNled : BitVec 16
  aInterval : Word
  aBright : Byte
  aNcol : BitVec 5
  aOn : BitVec 16
  aOff : BitVec 16
  aColor : ColorTable
  aStep : BitVec 16
  aPeriod : BitVec 18
  deriving DecidableEq, Repr

/-- The state of LIR-CFS (rule R10), and below it the model's own fields. -/
structure State where
  /-- The configuration registers (rule R10 (a)). -/
  cfg : Cfg
  /-- DRV (rule R20). -/
  drv : Drv
  /-- PHASE (rule R21). -/
  phase : BitVec 18
  /-- STATUS.EXIT (rule R22). -/
  exit : ExitCode
  /-- STATUS.CAUSE (rule R22). -/
  cause : Cause
  /-- STATUS.CANCEL_PEND (rule R27). -/
  cancelPend : Bool
  /-- STATUS.WERR, sticky (rule R27). -/
  werr : Bool
  /-- CONV_IN (rule R26). -/
  convIn : Word
  /-- SCALE_IN (rule R26). -/
  scaleIn : Word
  /-- PATR (rule R24). -/
  patr : Patr
  /-- PIX (rule R25; log entry 10). -/
  pix : BitVec 16
  /-- The output history of the run since the last reset, oldest first (rules R10 (e), R29; log entry 3). -/
  history : List OutEvent
  /-- The model's own: the histories of the runs that a RESET has closed, oldest first (log entry 3). -/
  pastRuns : List (List OutEvent)
  /-- The model's own: the value the last host read returned, none before the first (log entry 4). -/
  portOut : Option Word
  /-- The model's own: the moves of the agents still to come, the next one first (log entry 1). -/
  script : List Event
  deriving DecidableEq, Repr

/-- The configuration registers after reset (rule R30). -/
def Cfg.reset : Cfg :=
  { pat := 0, ledCount := 15, interval := 0, bright := 100, hueRate := 0, onTicks := 0, offTicks := 0, ncol := 0
    color := ColorTable.zero }

/-- PATR after reset: every field 0 except A_PERIOD = 1 (rules R24, R30). -/
def Patr.reset : Patr :=
  { aPat := 0, aNled := 0, aInterval := 0, aBright := 0, aNcol := 0, aOn := 0, aOff := 0
    aColor := ColorTable.zero, aStep := 0, aPeriod := 1 }

/-- The machine right after reset (rules R30, R160).  The last three fields are the model's own: no run closed, no value
read, no move to come (log entries 1, 3, 4, 9). -/
def State.reset : State :=
  { cfg := Cfg.reset, drv := .config, phase := 0, exit := .success, cause := .noCause
    cancelPend := false, werr := false, convIn := 0, scaleIn := 0, patr := Patr.reset, pix := 0
    history := [], pastRuns := [], portOut := none, script := [] }

/-- Why the machine stops.  The spec has no trap (spec/93_implementation_defined.md); each of these stands for a case that a
rule says CANNOT OCCUR, so each is safe: no state that satisfies rule R28 reaches one (log entry 13). -/
inductive Fault where
  /-- S_TICK with A_PAT = 6 or 7, which START refuses (rule R141).  Raised by the sequencer's tick.  Safe. -/
  | reservedPattern (pat : BitVec 3)
  /-- A WIPE pixel with A_NCOL = 0, which START refuses (rules R103, R141).  Raised by WIPE.  Safe. -/
  | wipeNoColours
  /-- A WIPE pixel whose table index is past entry 15 (rule R47: "there is no out-of-range table access").  Raised by WIPE
  when A_NCOL is 17 to 31.  Safe. -/
  | wipeIndex (j : Nat)
  /-- A BRSYNC or BROFF pixel with PHASE at 46080 or more (rules R28 (c), R109 (b)).  Raised by BRSYNC and BROFF.  Safe. -/
  | illegalHue (phase : BitVec 18)
  /-- A FLASH pixel with A_ON + A_OFF = 0, which START refuses (rules R106, R141).  Raised by FLASH.  Safe. -/
  | flashZeroPeriod
  /-- A phase advance with A_PERIOD = 0 (rule R127: "1 ≤ A_PERIOD").  Raised by T_ANS(ok).  Safe. -/
  | zeroPeriod
  deriving DecidableEq, Repr

/-- Why an instruction is not run.  Every instruction has its meaning, so nothing raises this; safe. -/
inductive Refusal where
  /-- An arm of `exec` without a meaning would raise it, with the instruction's mnemonic.  Safe. -/
  | notModelled (mnemonic : String)
  deriving DecidableEq, Repr

end Sys2Proof.Machine
end

