-- ==== Sys2Proof/Machine/Operands.lean ====
section
/-! DEFINITION. Where operands come from: register numbers as names (spec/20_memory.md rule R41), the colour table, the
channels of a pixel word (rule R42), the field a configuration register keeps of a written word (rules R12 to R19, R66). -/

namespace Sys2Proof.Machine

/-- The registers of the map of rule R41. -/
inductive Reg where
  | cmd
  | status
  | pattern
  | ledCount
  | interval
  | bright
  | hueRate
  | onTicks
  | offTicks
  | ncol
  | phase
  | convIn
  | convOut
  | scaleIn
  | scaleOut
  | color (k : Fin 16)
  /-- Numbers 15 and 32 to 63. -/
  | unmapped
  deriving DecidableEq, Repr

/-- The map of rule R41: the register a number names. -/
def regOf (n : RegNum) : Reg :=
  if n = 0 then .cmd
  else if n = 1 then .status
  else if n = 2 then .pattern
  else if n = 3 then .ledCount
  else if n = 4 then .interval
  else if n = 5 then .bright
  else if n = 6 then .hueRate
  else if n = 7 then .onTicks
  else if n = 8 then .offTicks
  else if n = 9 then .ncol
  else if n = 10 then .phase
  else if n = 11 then .convIn
  else if n = 12 then .convOut
  else if n = 13 then .scaleIn
  else if n = 14 then .scaleOut
  else if h : 16 ≤ n.toNat ∧ n.toNat ≤ 31 then .color ⟨n.toNat - 16, by omega⟩
  else .unmapped

/-- Entry `k` of a colour table. -/
def ColorTable.get (t : ColorTable) (k : Fin 16) : Pixel :=
  t.entries[k.val]'(by have := t.full; omega)

/-- The table with entry `k` replaced. -/
def ColorTable.set (t : ColorTable) (k : Fin 16) (p : Pixel) : ColorTable :=
  ⟨t.entries.set k.val p, by rw [List.length_set]; exact t.full⟩

/-- The table with a function applied to every entry. -/
def ColorTable.map (t : ColorTable) (f : Pixel → Pixel) : ColorTable :=
  ⟨t.entries.map f, by rw [List.length_map]; exact t.full⟩

/-- The red channel, bits [23:16] (rule R42). -/
def red (p : Pixel) : Byte := p.extractLsb' 16 8

/-- The green channel, bits [15:8] (rule R42). -/
def green (p : Pixel) : Byte := p.extractLsb' 8 8

/-- The blue channel, bits [7:0] (rule R42). -/
def blue (p : Pixel) : Byte := p.extractLsb' 0 8

/-- `rgb(r, g, b)` = `{r, g, b}` (spec/00_scope.md section 6, rule R42). -/
def rgb (r g b : Byte) : Pixel := r ++ g ++ b

/-- The narrowing `low8(v)` = `v mod 256` (spec/00_scope.md section 6). -/
def low8 (v : Nat) : Byte := BitVec.ofNat 8 v

/-- `zext_32` (spec/00_scope.md section 6). -/
def zext32 {n : Nat} (x : BitVec n) : Word := x.setWidth 32

/-- What a configuration register keeps of a written word: its field in the low bits; the bits above are discarded
(rules R11, R45).  Registers that are no configuration leave the record as it is. -/
def storeField (r : Reg) (v : Word) (c : Cfg) : Cfg :=
  match r with
  | .pattern => { c with pat := v.setWidth 3 }
  | .ledCount => { c with ledCount := v.setWidth 16 }
  | .interval => { c with interval := v }
  | .bright => { c with bright := v.setWidth 8 }
  | .hueRate => { c with hueRate := v.setWidth 16 }
  | .onTicks => { c with onTicks := v.setWidth 16 }
  | .offTicks => { c with offTicks := v.setWidth 16 }
  | .ncol => { c with ncol := v.setWidth 5 }
  | .color k => { c with color := c.color.set k (v.setWidth 24) }
  | .cmd => c
  | .status => c
  | .phase => c
  | .convIn => c
  | .convOut => c
  | .scaleIn => c
  | .scaleOut => c
  | .unmapped => c

end Sys2Proof.Machine
end

