-- ==== Sys2Proof/Machine/Flags.lean ====
section
/-! DEFINITION. The status word and the flag bits (spec/10_state.md rules R20, R22, R27; spec/60_exceptions.md rules R140,
R141).  ILL, the third flag, is computed in ColorModel.lean. -/

namespace Sys2Proof.Machine

/-- The code of a driver state in STATUS[2:0] (rule R20). -/
def Drv.code : Drv → BitVec 3
  | .config => 0
  | .opening => 1
  | .tick => 2
  | .emit => 3
  | .wait => 4
  | .terminated => 5

/-- The code of an exit reason in STATUS[6:4] (rules R22, R140). -/
def ExitCode.code : ExitCode → BitVec 3
  | .success => 0
  | .construct => 1
  | .openFailed => 2
  | .transport => 3
  | .cancelled => 4

/-- The code of a construction error in STATUS[9:8] (rules R22, R141). -/
def Cause.code : Cause → BitVec 2
  | .noCause => 0
  | .patternCode => 1
  | .colourCount => 2
  | .flashPeriod => 3

/-- STATUS, assembled from state on every read, field by field from bit 31 down (rules R22, R44). -/
def statusWord (s : State) : Word :=
  (0 : BitVec 14) ++ BitVec.ofBool s.werr ++ BitVec.ofBool s.cancelPend ++ (0 : BitVec 6) ++ s.cause.code
    ++ (0 : BitVec 1) ++ s.exit.code ++ (0 : BitVec 1) ++ s.drv.code

/-- `WERR <- 1` and nothing else: a refused host write (rules R27, R45). -/
def setWerr (s : State) : State := { s with werr := true }

/-- `CANCEL_PEND <- 1` and nothing else (rule R123). -/
def setCancelPend (s : State) : State := { s with cancelPend := true }

end Sys2Proof.Machine
end

