-- ==== Sys2Proof/Machine/ColorModel.lean ====
section
/-! DEFINITION. The colour converter CC (spec/40_color_model.md): the pure functions HSV2RGB (rules R82, R83) and SCALE
(rules R88, R89), and the result words the host reads (rules R26, R85).  All arithmetic is on natural numbers, exact, with one
truncation per channel (rule R81). -/

namespace Sys2Proof.Machine

/-- The sector index `k` of rule R82, by five comparisons. -/
def sectorOf (h : Nat) : Nat :=
  if h < 7680 then 0
  else if h < 15360 then 1
  else if h < 23040 then 2
  else if h < 30720 then 3
  else if h < 38400 then 4
  else 5

/-- The offset `f` of a hue in its sector (rule R82). -/
def sectorOffset (h : Nat) : Nat := h - Config.sector * sectorOf h

/-- The ramp `u` of rule R83: rising in even sectors, falling in odd ones. -/
def ramp (h : Nat) : Nat :=
  if sectorOf h = 0 ∨ sectorOf h = 2 ∨ sectorOf h = 4 then sectorOffset h else Config.sector - sectorOffset h

/-- `lo` of rule R83. -/
def hsvLo (sat val : Nat) : Nat := val * (255 - sat) / 255

/-- `mid` of rule R83; 1958400 = 255 × 7680. -/
def hsvMid (u sat val : Nat) : Nat := val * ((255 - sat) * 7680 + sat * u) / 1958400

/-- HSV2RGB of rule R83, for a hue below 46080. -/
def hsv2rgb (h : BitVec 16) (sat val : Byte) : Pixel :=
  let hi := val
  let lo := low8 (hsvLo sat.toNat val.toNat)
  let mid := low8 (hsvMid (ramp h.toNat) sat.toNat val.toNat)
  match sectorOf h.toNat with
  | 0 => rgb hi mid lo
  | 1 => rgb mid hi lo
  | 2 => rgb lo hi mid
  | 3 => rgb lo mid hi
  | 4 => rgb mid lo hi
  | _ => rgb hi lo mid

/-- One channel scaled: the low 8 bits of the full-width quotient (rules R88, R89). -/
def scaleChannel (c pct : Byte) : Byte := low8 (c.toNat * pct.toNat / 100)

/-- SCALE of rule R88: the three channels independently. -/
def scale (p : Pixel) (pct : Byte) : Pixel :=
  rgb (scaleChannel (red p) pct) (scaleChannel (green p) pct) (scaleChannel (blue p) pct)

/-- The flag CONV_OUT.ILL: computed on each read, the hue is no legal one (rules R27, R85). -/
def illegalHue (h : BitVec 16) : Bool := decide (Config.turn ≤ h.toNat)

/-- What a read of CONV_OUT returns for the operands in CONV_IN (rules R26, R44, R85): ILL and RGB = 0 for an illegal hue,
which is not wrapped, clamped or otherwise used. -/
def convOut (h : BitVec 16) (sat val : Byte) : Word :=
  if illegalHue h then 0x80000000 else zext32 (hsv2rgb h sat val)

/-- What a read of SCALE_OUT returns for the operands in SCALE_IN (rules R26, R44). -/
def scaleOut (pix : Pixel) (pct : Byte) : Word := zext32 (scale pix pct)

end Sys2Proof.Machine
end

