-- ==== Sys2Proof/Machine/Frame.lean ====
section
/-! DEFINITION. The frame generator (spec/41_frame_generator.md): the six pixel functions (rules R101 to R106), the per-pixel
modulator of the hue patterns (rule R107), GenFrame (rule R100), and the period and step table (rule R108).  A pixel whose
rule says its operands cannot occur is a named fault (log entry 13). -/

namespace Sys2Proof.Machine

/-- `hue_px(h)` = SCALE(HSV2RGB(h, 255, 255), A_BRIGHT), for a hue below 46080 (rule R107). -/
def huePx (p : Patr) (h : Nat) : Pixel := scale (hsv2rgb (BitVec.ofNat 16 h) 255 255) p.aBright

/-- OFF: every pixel is zero (rule R101). -/
def pxOff (_ : Patr) (_ : BitVec 18) (_ _ : Nat) : Except Fault Pixel := .ok 0

/-- STATIC: every pixel is A_COLOR[0] (rule R102). -/
def pxStatic (p : Patr) (_ : BitVec 18) (_ _ : Nat) : Except Fault Pixel := .ok (p.aColor.get 0)

/-- WIPE: pixel i is A_COLOR[(i + phase) mod A_NCOL] (rules R47, R103). -/
def pxWipe (p : Patr) (phase : BitVec 18) (_ i : Nat) : Except Fault Pixel :=
  if p.aNcol.toNat = 0 then .error .wipeNoColours
  else
    match p.aColor.entries[(i + phase.toNat) % p.aNcol.toNat]? with
    | some c => .ok c
    | none => .error (.wipeIndex ((i + phase.toNat) % p.aNcol.toNat))

/-- BRSYNC: every pixel has the hue `phase` (rule R104). -/
def pxBrsync (p : Patr) (phase : BitVec 18) (_ _ : Nat) : Except Fault Pixel :=
  if phase.toNat < Config.turn then .ok (huePx p phase.toNat) else .error (.illegalHue phase)

/-- The offset of pixel `i` of `n` in hue units (rule R105). -/
def hueOffset (n i : Nat) : Nat := i * 46080 / n

/-- The hue wrap of rule R105: one conditional subtraction. -/
def wrapHue (h : Nat) : Nat := if 46080 ≤ h then h - 46080 else h

/-- BROFF: pixel i of n has the hue `phase + off(i)`, wrapped (rule R105). -/
def pxBroff (p : Patr) (phase : BitVec 18) (n i : Nat) : Except Fault Pixel :=
  if phase.toNat < Config.turn then .ok (huePx p (wrapHue (phase.toNat + hueOffset n i)))
  else .error (.illegalHue phase)

/-- FLASH: A_COLOR[0] in the on part of the period, zero in the off part (rule R106). -/
def pxFlash (p : Patr) (phase : BitVec 18) (_ _ : Nat) : Except Fault Pixel :=
  if p.aOn.toNat + p.aOff.toNat = 0 then .error .flashZeroPeriod
  else if phase.toNat % (p.aOn.toNat + p.aOff.toNat) < p.aOn.toNat then .ok (p.aColor.get 0)
  else .ok 0

/-- `count` pixels in index order from index `i` on; with none, no pixel is evaluated (rule R100). -/
def genPixels (px : Nat → Except Fault Pixel) : Nat → Nat → Except Fault (List Pixel)
  | 0, _ => .ok []
  | count + 1, i =>
    match px i with
    | .error e => .error e
    | .ok c =>
      match genPixels px count (i + 1) with
      | .error e => .error e
      | .ok rest => .ok (c :: rest)

/-- The frame of `n` pixels of one pixel function. -/
def frameBy (px : Patr → BitVec 18 → Nat → Nat → Except Fault Pixel) (p : Patr) (phase : BitVec 18) (n : Nat) :
    Except Fault (List Pixel) := genPixels (px p phase n) n 0

/-- `GenFrame(PATR, phase, n)`: the pattern multiplexer picks the pixel function from A_PAT (rule R100). -/
def genFrame (p : Patr) (phase : BitVec 18) (n : Nat) : Except Fault (List Pixel) :=
  if p.aPat = 0 then frameBy pxOff p phase n
  else if p.aPat = 1 then frameBy pxStatic p phase n
  else if p.aPat = 2 then frameBy pxWipe p phase n
  else if p.aPat = 3 then frameBy pxBrsync p phase n
  else if p.aPat = 4 then frameBy pxBroff p phase n
  else if p.aPat = 5 then frameBy pxFlash p phase n
  else .error (.reservedPattern p.aPat)

/-- A_STEP of the table of rule R108.  Codes 6 and 7 have no row: START refuses them before it reads the table. -/
def stepOf (c : Cfg) : BitVec 16 :=
  if c.pat = 2 ∨ c.pat = 5 then 1
  else if c.pat = 3 ∨ c.pat = 4 then c.hueRate
  else 0

/-- A_PERIOD of the table of rule R108.  Codes 6 and 7 have no row: START refuses them before it reads the table. -/
def periodOf (c : Cfg) : BitVec 18 :=
  if c.pat = 2 then BitVec.ofNat 18 (max c.ledCount.toNat 1)
  else if c.pat = 3 ∨ c.pat = 4 then 46080
  else if c.pat = 5 then BitVec.ofNat 18 (c.onTicks.toNat + c.offTicks.toNat)
  else 1

end Sys2Proof.Machine
end

