-- ==== Sys2Proof/Machine/Ops.lean ====
section
/-! DEFINITION. The shared operations of the machine: emitting to the transport, ending a run (rule R144) and the way back
(rules R147, R160), the sequencer's tick (rule R125), the phase advance (rule R127), and the views of rules R49 and R150. -/

namespace Sys2Proof.Machine

/-- What a step or a meaning answers. -/
abbrev Result := Host.Outcome State Fault Refusal

/-- `emit`: append one event to the output history (rule R29). -/
def emit (e : OutEvent) (s : State) : State := { s with history := s.history ++ [e] }

/-- `raise Fatal(exit, cause)`, the termination entry: exactly three writes, nothing saved elsewhere, no vector (rule R144).
The success of OFF is the same three writes (rule R144). -/
def raiseFatal (e : ExitCode) (c : Cause) (s : State) : State := { s with drv := .terminated, exit := e, cause := c }

/-- RESET, the only way out of TERMINATED (rules R147, R160): every element of rule R30 to its reset value, an outstanding
request forgotten (rule R162).  The history of the run is closed, not erased; the moves to come and the value the host last
read are not the block's (log entries 1, 3, 4). -/
def resetPin (s : State) : State :=
  { State.reset with pastRuns := s.pastRuns ++ [s.history], portOut := s.portOut, script := s.script }

/-- The value a host read returns at the port (rule R44; log entry 4). -/
def answerHost (v : Word) (s : State) : State := { s with portOut := some v }

/-- S_TICK (rule R125) with the frame given by `gen`: enabled only in TICK (in every other state the turn passes, log
entry 2); a pending cancellation ends the run before a frame is generated; PHASE is read, not written.  PIX has counted
the pixels and no value of it survives the step (log entry 10). -/
def sTick (gen : Patr → BitVec 18 → Nat → Except Fault (List Pixel)) (s : State) : Result :=
  if s.drv = .tick then
    if s.cancelPend then .next (raiseFatal .cancelled .noCause s)
    else
      match gen s.patr s.phase s.patr.aNled.toNat with
      | .ok f => .next { emit (.frameOut f) s with drv := .emit, pix := 0 }
      | .error e => .fault e
  else .next s

/-- `(PHASE + A_STEP) mod A_PERIOD`, the sum formed exactly; defined for A_PERIOD at least 1 (rule R127). -/
def nextPhase (p : Patr) (phase : BitVec 18) : BitVec 18 :=
  BitVec.ofNat 18 ((phase.toNat + p.aStep.toNat) % p.aPeriod.toNat)

/-- A request to the Transport Adapter that has no answer yet (rule R49). -/
inductive Request where
  | openReq
  | frameOut
  deriving DecidableEq, Repr

/-- The outstanding request, a view of DRV: OpenReq exactly in OPENING, FrameOut exactly in EMIT (rule R49; log entry 11). -/
def State.outstanding (s : State) : Option Request :=
  match s.drv with
  | .opening => some .openReq
  | .emit => some .frameOut
  | .config => none
  | .tick => none
  | .wait => none
  | .terminated => none

/-- The armed timer, a view of DRV: armed with A_INTERVAL exactly in WAIT (rules R128, R150; log entry 11).  One count lasts
`Config.intervalUnit`; no rule reads it. -/
def State.timerArmed (s : State) : Option Word := if s.drv = .wait then some s.patr.aInterval else none

end Sys2Proof.Machine
end

