-- ==== Sys2Proof/Machine/Commands.lean ====
section
/-! DEFINITION. The host commands START (spec/42_driver_and_host_commands.md rule R122) and CANCEL (rule R123), with the
construction checks (spec/60_exceptions.md rule R141) and the loading of PATR (rule R24). -/

namespace Sys2Proof.Machine

/-- `ConstructCheck()`: the first failing check's cause, or none (rule R141). -/
def constructCheck (c : Cfg) : Cause :=
  if 6 ≤ c.pat.toNat then .patternCode
  else if c.pat = 2 ∧ (c.ncol.toNat = 0 ∨ Config.ncolMax < c.ncol.toNat) then .colourCount
  else if c.pat = 5 ∧ c.onTicks.toNat + c.offTicks.toNat = 0 then .flashPeriod
  else .noCause

/-- `min(BRIGHT.PCT, 100)` (rules R15, R122). -/
def clampPct (pct : Byte) : Byte := if pct.toNat ≤ Config.pctMax then pct else 100

/-- PATR as START loads it from the configuration registers (rules R24, R108, R122): brightness clamped, all sixteen colours
scaled, step and period from the table. -/
def latchPatr (c : Cfg) : Patr :=
  { aPat := c.pat
    aNled := c.ledCount
    aInterval := c.interval
    aBright := clampPct c.bright
    aNcol := c.ncol
    aOn := c.onTicks
    aOff := c.offTicks
    aColor := c.color.map (fun p => scale p (clampPct c.bright))
    aStep := stepOf c
    aPeriod := periodOf c }

/-- START (rules R122, R146): refusal first, then the checks, then the construction and OpenReq. -/
def startCmd (s : State) : State :=
  if s.drv = .config then
    match constructCheck s.cfg with
    | .noCause => emit .openReq { s with patr := latchPatr s.cfg, phase := 0, drv := .opening }
    | .patternCode => raiseFatal .construct .patternCode s
    | .colourCount => raiseFatal .construct .colourCount s
    | .flashPeriod => raiseFatal .construct .flashPeriod s
  else setWerr s

/-- CANCEL (rule R123): latched in OPENING, TICK, EMIT and WAIT; in CONFIG and TERMINATED there is nothing to cancel. -/
def cancelCmd (s : State) : State :=
  match s.drv with
  | .opening => setCancelPend s
  | .tick => setCancelPend s
  | .emit => setCancelPend s
  | .wait => setCancelPend s
  | .config => setWerr s
  | .terminated => setWerr s

/-- The instruction START. -/
def execStart (s : State) : Result := .next (startCmd s)

/-- The instruction CANCEL. -/
def execCancel (s : State) : Result := .next (cancelCmd s)

end Sys2Proof.Machine
end

