-- ==== Sys2Proof/Machine/HostPort.lean ====
section
/-! DEFINITION. The host register accesses: HostRead (spec/20_memory.md rule R44) and HostWrite (rule R45). -/

namespace Sys2Proof.Machine

/-- `HostRead(n)`: what a host read of register `n` returns; no read has a side effect (rule R44). -/
def hostRead (n : RegNum) (s : State) : Word :=
  match regOf n with
  | .cmd => 0
  | .status => statusWord s
  | .pattern => zext32 s.cfg.pat
  | .ledCount => zext32 s.cfg.ledCount
  | .interval => s.cfg.interval
  | .bright => zext32 s.cfg.bright
  | .hueRate => zext32 s.cfg.hueRate
  | .onTicks => zext32 s.cfg.onTicks
  | .offTicks => zext32 s.cfg.offTicks
  | .ncol => zext32 s.cfg.ncol
  | .phase => zext32 s.phase
  | .convIn => s.convIn
  | .convOut => convOut (hueField s.convIn) (satField s.convIn) (valField s.convIn)
  | .scaleIn => s.scaleIn
  | .scaleOut => scaleOut (pixField s.scaleIn) (pctField s.scaleIn)
  | .color k => zext32 (s.cfg.color.get k)
  | .unmapped => 0

/-- A write to a configuration register: effective in CONFIG only, else refused (rules R11, R45). -/
def writeCfg (r : Reg) (v : Word) (s : State) : State :=
  if s.drv = .config then { s with cfg := storeField r v s.cfg } else setWerr s

/-- A write to CMD, decoded on all 32 bits (rules R23, R45, R63). -/
def writeCmd (v : Word) (s : State) : State :=
  if v = 1 then startCmd s else if v = 2 then cancelCmd s else setWerr s

/-- `HostWrite(n, v)`: one atomic step with the effects of rule R45 and no others. -/
def hostWrite (n : RegNum) (v : Word) (s : State) : State :=
  match regOf n with
  | .cmd => writeCmd v s
  | .status => setWerr s
  | .phase => setWerr s
  | .convOut => setWerr s
  | .scaleOut => setWerr s
  | .unmapped => setWerr s
  | .convIn => { s with convIn := v }
  | .scaleIn => { s with scaleIn := v }
  | .pattern => writeCfg .pattern v s
  | .ledCount => writeCfg .ledCount v s
  | .interval => writeCfg .interval v s
  | .bright => writeCfg .bright v s
  | .hueRate => writeCfg .hueRate v s
  | .onTicks => writeCfg .onTicks v s
  | .offTicks => writeCfg .offTicks v s
  | .ncol => writeCfg .ncol v s
  | .color k => writeCfg (.color k) v s

/-- The instruction RD (rule R44). -/
def execRd (n : RegNum) (s : State) : Result := .next (answerHost (hostRead n s) s)

/-- The instruction WR (rule R45). -/
def execWr (n : RegNum) (v : Word) (s : State) : Result := .next (hostWrite n v s)

end Sys2Proof.Machine
end

