-- ==== Sys2Proof/Machine/Patterns.lean ====
section
/-! DEFINITION. The meanings of the six pattern instructions (spec/41_frame_generator.md rules R101 to R106).  A pattern is
what the sequencer executes in a tick: its meaning is S_TICK (rule R125) with the pattern's pixel function (log entry 5). -/

namespace Sys2Proof.Machine

/-- OFF (rules R101, R125). -/
def execOff (s : State) : Result := sTick (frameBy pxOff) s

/-- STATIC (rules R102, R125). -/
def execStatic (s : State) : Result := sTick (frameBy pxStatic) s

/-- WIPE (rules R103, R125). -/
def execWipe (s : State) : Result := sTick (frameBy pxWipe) s

/-- BRSYNC (rules R104, R125). -/
def execBrsync (s : State) : Result := sTick (frameBy pxBrsync) s

/-- BROFF (rules R105, R125). -/
def execBroff (s : State) : Result := sTick (frameBy pxBroff) s

/-- FLASH (rules R106, R125). -/
def execFlash (s : State) : Result := sTick (frameBy pxFlash) s

end Sys2Proof.Machine
end

