-- ==== Sys2Proof/Machine/Units.lean ====
section
/-! DEFINITION. The function-unit instructions HSV2RGB and SCALE in their host form (spec/10_state.md rule R26,
spec/30_encoding.md rules R60, R64, R65, R70): the operand word stands in CONV_IN or SCALE_IN and the result is what CONV_OUT
or SCALE_OUT reads.  Where the word stands there already, as when the block decodes it on such a read, storing it changes
nothing (log entry 6). -/

namespace Sys2Proof.Machine

/-- HSV2RGB (rules R64, R83, R85). -/
def execHsv2rgb (h : BitVec 16) (sat val : Byte) (s : State) : Result :=
  .next (answerHost (convOut h sat val) { s with convIn := hsvWord h sat val })

/-- SCALE (rules R65, R88, R89). -/
def execScale (pix : Pixel) (pct : Byte) (s : State) : Result :=
  .next (answerHost (scaleOut pix pct) { s with scaleIn := scaleWord pix pct })

end Sys2Proof.Machine
end

