-- ==== Sys2Proof/Machine/Dispatch.lean ====
section
/-! DEFINITION. One arm per instruction, each one call of its meaning. -/

namespace Sys2Proof.Machine

def exec (i : Instr) (s : State) : Host.Outcome State Fault Refusal :=
  match i with
  | .off => Sys2Proof.Machine.execOff s
  | .static => Sys2Proof.Machine.execStatic s
  | .wipe => Sys2Proof.Machine.execWipe s
  | .brsync => Sys2Proof.Machine.execBrsync s
  | .broff => Sys2Proof.Machine.execBroff s
  | .flash => Sys2Proof.Machine.execFlash s
  | .start => Sys2Proof.Machine.execStart s
  | .cancel => Sys2Proof.Machine.execCancel s
  | .hsv2rgb h sat val => Sys2Proof.Machine.execHsv2rgb h sat val s
  | .scale pix pct => Sys2Proof.Machine.execScale pix pct s
  | .rd n => Sys2Proof.Machine.execRd n s
  | .wr n v => Sys2Proof.Machine.execWr n v s

end Sys2Proof.Machine
end

