-- ==== Sys2Proof/Machine/Environment.lean ====
section
/-! DEFINITION. The steps that have rules but no row in the opcode table: T_OPEN (spec/42_driver_and_host_commands.md rule
R124), T_ANS (rules R126, R127), TMR (rule R128), and RESET (spec/70_reset_and_hazards.md rule R160).  A step that is not
enabled does not exist (rule R120): its turn passes with no effect (log entry 2). -/

namespace Sys2Proof.Machine

/-- T_OPEN, enabled only in OPENING (rule R124); the answer is recorded in the history (rule R131). -/
def tOpen (a : Answer) (s : State) : State :=
  if s.drv = .opening then
    match a with
    | .ok => { emit (.openAns .ok) s with drv := .tick }
    | .err => raiseFatal .openFailed .noCause (emit (.openAns .err) s)
  else s

/-- T_ANS, enabled only in EMIT (rule R126): the error test before the OFF test (rule R146), else the phase advance
(rule R127) and the wait. -/
def tAns (a : Answer) (s : State) : Result :=
  if s.drv = .emit then
    match a with
    | .err => .next (raiseFatal .transport .noCause (emit (.transAns .err) s))
    | .ok =>
      if s.patr.aPat = 0 then .next (raiseFatal .success .noCause (emit (.transAns .ok) s))
      else if s.patr.aPeriod = 0 then .fault .zeroPeriod
      else .next { emit (.transAns .ok) s with phase := nextPhase s.patr s.phase, drv := .wait }
  else .next s

/-- TMR, enabled only in WAIT; `DRV <- TICK` and nothing else (rule R128). -/
def tmr (s : State) : State := if s.drv = .wait then { s with drv := .tick } else s

/-- The move at the head of the script when it is no instruction: consumed, and its step taken if it is enabled.  With no
move listed, the block waits (rules R132, R160). -/
def environment (s : State) : Result :=
  match s.script with
  | [] => .next s
  | .reset :: rest => .next (resetPin { s with script := rest })
  | .tOpen a :: rest => .next (tOpen a { s with script := rest })
  | .tAns a :: rest => tAns a { s with script := rest }
  | .tmr :: rest => .next (tmr { s with script := rest })
  | .tick :: rest => .next { s with script := rest }
  | .host _ :: rest => .next { s with script := rest }

end Sys2Proof.Machine
end

