-- ==== Sys2Proof/Machine/Fetch.lean ====
section
/-! DEFINITION. Where the block takes its next instruction word from: spec/30_encoding.md rule R60, the column "decoded when".
A command word when CMD is written; the word in CONV_IN whenever CONV_OUT is read; the word in SCALE_IN whenever SCALE_OUT is
read; A_PAT in the sequencer's tick (spec/41_frame_generator.md rule R100); every other host access is itself (rule R69). -/

namespace Sys2Proof.Machine

/-- The word a host access makes the block decode, and its format (rules R23, R60).  A write of a reserved command word
names no command and is a plain write (rules R45, R63). -/
def accessCoded (convIn scaleIn : Word) (a : Access) : Coded :=
  match a.kind with
  | .rd => if a.n = 12 then .h convIn else if a.n = 14 then .s scaleIn else .a a.pack
  | .wr => if isCommandWrite a.n a.v then .c a.v else .a a.pack

/-- The instruction word of the next step, if the next move is a host access or a tick of the sequencer; with no move listed
the sequencer takes its own step where it has one. -/
def fetch (s : State) : Option Coded :=
  match s.script with
  | .host a :: _ => some (accessCoded s.convIn s.scaleIn a)
  | .tick :: _ => if s.drv = .tick then some (.p (zext32 s.patr.aPat)) else none
  | [] => if s.drv = .tick then some (.p (zext32 s.patr.aPat)) else none
  | .reset :: _ => none
  | .tOpen _ :: _ => none
  | .tAns _ :: _ => none
  | .tmr :: _ => none

/-- Past the move just taken. -/
def advance (s : State) : State := { s with script := s.script.tail }

/-- A fetched word that is no instruction.  A reserved A_PAT in a tick: the cancellation is still honoured (rule R125), a
frame is not defined.  A reserved command word: `WERR <- 1` and nothing else (rules R45, R63). -/
def runRejected (e : DecodeError) (s : State) : Result :=
  match e with
  | .reservedPattern pat => sTick (fun _ _ _ => .error (.reservedPattern pat)) s
  | .reservedCommand _ => .next (setWerr s)

/-- The state in which the next step fetches the given word: the move that makes the block decode it is put first, the word
is where that format is fetched from, and for a pattern word the sequencer is at a tick boundary with no cancellation
pending.  Nothing else changes. -/
def place (c : Coded) (s : State) : State :=
  match c with
  | .p w => { s with
      patr := { s.patr with aPat := patternCode w }, drv := .tick, cancelPend := false, script := .tick :: s.script }
  | .c w => { s with script := .host ⟨.wr, 0, w⟩ :: s.script }
  | .h w => { s with convIn := w, script := .host ⟨.rd, 12, 0⟩ :: s.script }
  | .s w => { s with scaleIn := w, script := .host ⟨.rd, 14, 0⟩ :: s.script }
  | .a t => { s with script := .host (unpackAccess t) :: s.script }

end Sys2Proof.Machine
end

