-- ==== Sys2Proof/Machine/Step.lean ====
section
/-! DEFINITION. One step of the machine: the next move of the script (or, with none listed, the sequencer's own) is taken whole
(spec/00_scope.md rule R5: every step is atomic).  Decoding, fetching and the meanings stand in files of their own. -/

namespace Sys2Proof.Machine

/-- Decode a fetched word and run its instruction. -/
def runWord (c : Coded) (s : State) : Host.Outcome State Fault Refusal :=
  match decode c with
  | .ok i => exec i s
  | .error e => runRejected e s

/-- One step: if the next move makes the block decode a word, its instruction runs; otherwise the move is the
environment's. -/
def step (s : State) : Host.Outcome State Fault Refusal :=
  match fetch s with
  | some c => runWord c (advance s)
  | none => environment s

/-- The state in which the next step fetches the word of spec/opcode_table.json that `decodeTableWord` reads.  A number that
spells no word (rule R43) puts nothing in place. -/
def State.withFetchWord (s : State) (nbits w : Nat) : State :=
  match tableCoded nbits w with
  | .ok c => place c s
  | .error _ => s

end Sys2Proof.Machine
end

