-- ==== Sys2Proof/Safety.lean ====
section
/-! DEFINITION. What counts as a safe state and a safe run: the invariant of spec/10_state.md rule R28, the shape of the output
history of spec/42_driver_and_host_commands.md rule R131, and the views claims are stated in. -/

namespace Sys2Proof.Machine

/-- The driver states between a successful START and the end of the run (rule R28 (a)). -/
def Drv.active : Drv → Bool
  | .config => false
  | .opening => true
  | .tick => true
  | .emit => true
  | .wait => true
  | .terminated => false

/-- What START guarantees of PATR (rules R28 (a) to (c), R108, R141).  The two equations on A_PERIOD are what makes (b) and
(c) hold after every phase advance. -/
structure Patr.Constructed (p : Patr) : Prop where
  patternLegal : p.aPat.toNat ≤ 5
  brightClamped : p.aBright.toNat ≤ 100
  periodPositive : 1 ≤ p.aPeriod.toNat
  periodBounded : p.aPeriod.toNat ≤ 131070
  wipeColours : p.aPat = 2 → 1 ≤ p.aNcol.toNat ∧ p.aNcol.toNat ≤ 16
  flashPeriod : p.aPat = 5 → 1 ≤ p.aOn.toNat + p.aOff.toNat ∧ p.aPeriod.toNat = p.aOn.toNat + p.aOff.toNat
  huePeriod : p.aPat = 3 ∨ p.aPat = 4 → p.aPeriod.toNat = 46080

/-- The invariant of rule R28 (a), (b), (c), (e), with PIX between two steps (rule R25, log entry 10). -/
structure Inv (s : State) : Prop where
  constructed : s.drv.active = true → s.patr.Constructed
  phaseInPeriod : s.drv.active = true → s.phase.toNat < s.patr.aPeriod.toNat
  exitOnlyAtEnd : s.exit ≠ .success → s.drv = .terminated
  causeOnlyConstruct : s.cause ≠ .noCause → s.exit = .construct
  pixIdle : s.pix = 0

/-- A step that answers a next state: no fault, no refusal. -/
def Safe (s : State) : Prop := ∃ t, step s = .next t

/-- The phase of the k-th frame, k from 0 (rule R131 (b)). -/
def phaseAt (p : Patr) (k : Nat) : BitVec 18 := BitVec.ofNat 18 (k * p.aStep.toNat % p.aPeriod.toNat)

/-- The k-th frame, `GenFrame(PATR, (k × A_STEP) mod A_PERIOD, A_NLED)` (rule R131 (b)). -/
def frameAt (p : Patr) (k : Nat) : List Pixel :=
  match genFrame p (phaseAt p k) p.aNled.toNat with
  | .ok f => f
  | .error _ => []

/-- The history of a run whose first `k` frames have been accepted and which waits for nothing (rules R51, R131). -/
def acceptedRun (p : Patr) : Nat → List OutEvent
  | 0 => [.openReq, .openAns .ok]
  | k + 1 => acceptedRun p k ++ [.frameOut (frameAt p k), .transAns .ok]

/-- The shape of the output history in every driver state (rules R51, R131): nothing before START, one OpenReq before every
FrameOut, the k-th frame the k-th of rule R131 (b), at most one frame for OFF, nothing after a failure. -/
def HistoryShape (s : State) : Prop :=
  match s.drv with
  | .config => s.history = []
  | .opening => s.history = [.openReq] ∧ s.phase = 0
  | .tick => ∃ k, s.history = acceptedRun s.patr k ∧ s.phase = phaseAt s.patr k ∧ (s.patr.aPat = 0 → k = 0)
  | .emit => ∃ k, s.history = acceptedRun s.patr k ++ [.frameOut (frameAt s.patr k)] ∧ s.phase = phaseAt s.patr k
      ∧ (s.patr.aPat = 0 → k = 0)
  | .wait => ∃ k, s.history = acceptedRun s.patr (k + 1) ∧ s.phase = phaseAt s.patr (k + 1) ∧ s.patr.aPat ≠ 0
  | .terminated =>
    match s.exit with
    | .construct => s.history = []
    | .openFailed => s.history = [.openReq, .openAns .err]
    | .transport => ∃ k, s.history = acceptedRun s.patr k ++ [.frameOut (frameAt s.patr k), .transAns .err]
        ∧ s.phase = phaseAt s.patr k ∧ (s.patr.aPat = 0 → k = 0)
    | .cancelled => ∃ k, s.history = acceptedRun s.patr k ∧ s.phase = phaseAt s.patr k ∧ (s.patr.aPat = 0 → k = 0)
    | .success => s.patr.aPat = 0
        ∧ s.history = [.openReq, .openAns .ok, .frameOut (List.replicate s.patr.aNled.toNat 0), .transAns .ok]

/-- The frames handed over, in order (rule R48). -/
def framesOf (h : List OutEvent) : List (List Pixel) :=
  h.filterMap fun e =>
    match e with
    | .frameOut f => some f
    | .openReq => none
    | .openAns _ => none
    | .transAns _ => none

/-- Everything but the function-unit registers and the last read value: all that the sequencer's moves may depend on
(rule R26: "These four registers share nothing with the sequencer"). -/
def withoutUnits (s : State) : State := { s with convIn := 0, scaleIn := 0, portOut := none }

/-- The next move is the RESET pin. -/
def resetNext (s : State) : Bool := s.script.head? == some .reset

end Sys2Proof.Machine
end

