-- ==== Sys2Proof/Certificates/Slice0/Obligations.lean ====
section
/-! DEFINITION. The statements for the provers.  `{ s with … }` in a conclusion is the frame: every register, flag, special
register and history entry that is not named there is as before. -/

open Sys2Proof Sys2Proof.Machine

/-! ### Encoding and the step -/

/-- Words written out from the encodings of rules R61 to R65 and from spec/95_test_vectors.md V2, V4; basis derived. -/
def Obligations.TableWordsDecodeToTheirInstructions : Prop :=
  decode (.p 0x00000002) = .ok .wipe ∧
  decode (.p 0xFFFFFFF8) = .ok .off ∧
  decode (.p 0x00000007) = .error (.reservedPattern 7) ∧
  decode (.c 0x00000001) = .ok .start ∧
  decode (.c 0x00000002) = .ok .cancel ∧
  decode (.h 0xC8801680) = .ok (.hsv2rgb 5760 128 200) ∧
  decode (.s 0x32FF7F00) = .ok (.scale 0xFF7F00 50)

/-- No bit of an encoding is dropped: the word of every instruction decodes to that instruction, with every operand at every
value the encoding admits. -/
def Obligations.DecodeOfEncodeIsTheInstruction : Prop :=
  ∀ i : Instr, decode (encode i) = .ok i

/-- The other direction: a word that decodes to an instruction is that instruction's word, but for the bits its format
ignores (rules R61, R69). -/
def Obligations.EncodeOfDecodeIsTheCanonicalWord : Prop :=
  ∀ (c : Coded) (i : Instr), decode c = .ok i → encode i = c.canonical

/-- Rules R61, R62, R68: a pattern word is read through its low three bits; codes 0 to 5 are the six patterns in order, 6 and
7 are reserved. -/
def Obligations.PatternWordIsReadThroughThreeBits : Prop :=
  ∀ w : Word,
    (w.toNat % 8 = 0 → decode (.p w) = .ok .off) ∧
    (w.toNat % 8 = 1 → decode (.p w) = .ok .static) ∧
    (w.toNat % 8 = 2 → decode (.p w) = .ok .wipe) ∧
    (w.toNat % 8 = 3 → decode (.p w) = .ok .brsync) ∧
    (w.toNat % 8 = 4 → decode (.p w) = .ok .broff) ∧
    (w.toNat % 8 = 5 → decode (.p w) = .ok .flash) ∧
    (6 ≤ w.toNat % 8 → decode (.p w) = .error (.reservedPattern (BitVec.ofNat 3 w.toNat)))

/-- Rule R63: a write to CMD is START or CANCEL for exactly one word each; every other word sets WERR and does nothing
else. -/
def Obligations.CommandWordIsComparedOnAllBits : Prop :=
  ∀ (v : Word) (s : State),
    (v.toNat = 1 → decode (.c v) = .ok .start ∧ exec (.wr 0 v) s = exec .start s) ∧
    (v.toNat = 2 → decode (.c v) = .ok .cancel ∧ exec (.wr 0 v) s = exec .cancel s) ∧
    (v.toNat ≠ 1 → v.toNat ≠ 2 →
      decode (.c v) = .error (.reservedCommand v) ∧ exec (.wr 0 v) s = .next { s with werr := true })

/-- A step runs the decoded instruction, after the move that brought its word has been taken off the script. -/
def Obligations.StepRunsTheDecodedInstruction : Prop :=
  ∀ (s : State) (c : Coded) (i : Instr), fetch s = some c → decode c = .ok i →
    step s = exec i { s with script := s.script.tail }

/-- Rule R60, "decoded when": which word each move makes the block decode.  That the sequencer's turn decodes A_PAT is
DEDUCED (log entry 5). -/
def Obligations.FetchTakesTheWordOfItsFormat : Prop :=
  ∀ (s : State) (rest : List Event) (n : RegNum) (v : Word),
    (s.script = .host ⟨.wr, 0, 1⟩ :: rest → fetch s = some (.c 1)) ∧
    (s.script = .host ⟨.wr, 0, 2⟩ :: rest → fetch s = some (.c 2)) ∧
    (s.script = .host ⟨.rd, 12, v⟩ :: rest → fetch s = some (.h s.convIn)) ∧
    (s.script = .host ⟨.rd, 14, v⟩ :: rest → fetch s = some (.s s.scaleIn)) ∧
    (s.script = .host ⟨.rd, n, v⟩ :: rest → n ≠ 12 → n ≠ 14 → (fetch s).map decode = some (.ok (.rd n))) ∧
    (s.script = .host ⟨.wr, n, v⟩ :: rest → ¬ (n = 0 ∧ (v = 1 ∨ v = 2)) → (fetch s).map decode = some (.ok (.wr n v))) ∧
    ((s.script = [] ∨ s.script = .tick :: rest) → s.drv = .tick → fetch s = some (.p (s.patr.aPat.setWidth 32)))

/-- Whatever word an access makes the block decode, its step has the effect of RD or WR on that register (rules R44, R45,
R70): the second spellings of WellFormed.lean have no effect of their own. -/
def Obligations.HostAccessHasTheEffectOfItsRdOrWr : Prop :=
  ∀ (s : State) (rest : List Event) (n : RegNum) (v : Word),
    (s.script = .host ⟨.rd, n, v⟩ :: rest → step s = exec (.rd n) { s with script := rest }) ∧
    (s.script = .host ⟨.wr, n, v⟩ :: rest → step s = exec (.wr n v) { s with script := rest })

/-! ### Host register accesses -/

/-- Rule R44, row by row; STATUS as the sum of its fields at the bit positions of rule R22. -/
def Obligations.ReadReturnsTheMapAndChangesNothing : Prop :=
  ∀ s : State,
    (∀ n : RegNum, exec (.rd n) s = .next { s with portOut := some (hostRead n s) }) ∧
    hostRead 0 s = 0 ∧
    (hostRead 1 s).toNat = s.drv.code.toNat + 16 * s.exit.code.toNat + 256 * s.cause.code.toNat
      + 65536 * s.cancelPend.toNat + 131072 * s.werr.toNat ∧
    (hostRead 2 s).toNat = s.cfg.pat.toNat ∧
    (hostRead 3 s).toNat = s.cfg.ledCount.toNat ∧
    hostRead 4 s = s.cfg.interval ∧
    (hostRead 5 s).toNat = s.cfg.bright.toNat ∧
    (hostRead 6 s).toNat = s.cfg.hueRate.toNat ∧
    (hostRead 7 s).toNat = s.cfg.onTicks.toNat ∧
    (hostRead 8 s).toNat = s.cfg.offTicks.toNat ∧
    (hostRead 9 s).toNat = s.cfg.ncol.toNat ∧
    (hostRead 10 s).toNat = s.phase.toNat ∧
    hostRead 11 s = s.convIn ∧
    (s.convIn.toNat % 65536 < 46080 → (hostRead 12 s).toNat =
      (hsv2rgb (s.convIn.extractLsb' 0 16) (s.convIn.extractLsb' 16 8) (s.convIn.extractLsb' 24 8)).toNat) ∧
    (46080 ≤ s.convIn.toNat % 65536 → hostRead 12 s = 0x80000000) ∧
    hostRead 13 s = s.scaleIn ∧
    (hostRead 14 s).toNat = (scale (s.scaleIn.extractLsb' 0 24) (s.scaleIn.extractLsb' 24 8)).toNat ∧
    hostRead 15 s = 0 ∧
    (∀ k : Fin 16, (hostRead (BitVec.ofNat 6 (16 + k.val)) s).toNat = (s.cfg.color.get k).toNat) ∧
    (∀ n : RegNum, 32 ≤ n.toNat → hostRead n s = 0)

/-- Rule R45, row by row; the commands are those of rules R122 and R123. -/
def Obligations.WriteHasTheEffectsOfTheMap : Prop :=
  ∀ (s : State) (v : Word),
    exec (.wr 0 1) s = exec .start s ∧
    exec (.wr 0 2) s = exec .cancel s ∧
    (v ≠ 1 → v ≠ 2 → exec (.wr 0 v) s = .next { s with werr := true }) ∧
    (∀ n : RegNum, n = 1 ∨ n = 10 ∨ n = 12 ∨ n = 14 ∨ n = 15 ∨ 32 ≤ n.toNat →
      exec (.wr n v) s = .next { s with werr := true }) ∧
    exec (.wr 11 v) s = .next { s with convIn := v } ∧
    exec (.wr 13 v) s = .next { s with scaleIn := v } ∧
    (s.drv = .config →
      exec (.wr 2 v) s = .next { s with cfg := { s.cfg with pat := v.extractLsb' 0 3 } } ∧
      exec (.wr 3 v) s = .next { s with cfg := { s.cfg with ledCount := v.extractLsb' 0 16 } } ∧
      exec (.wr 4 v) s = .next { s with cfg := { s.cfg with interval := v } } ∧
      exec (.wr 5 v) s = .next { s with cfg := { s.cfg with bright := v.extractLsb' 0 8 } } ∧
      exec (.wr 6 v) s = .next { s with cfg := { s.cfg with hueRate := v.extractLsb' 0 16 } } ∧
      exec (.wr 7 v) s = .next { s with cfg := { s.cfg with onTicks := v.extractLsb' 0 16 } } ∧
      exec (.wr 8 v) s = .next { s with cfg := { s.cfg with offTicks := v.extractLsb' 0 16 } } ∧
      exec (.wr 9 v) s = .next { s with cfg := { s.cfg with ncol := v.extractLsb' 0 5 } } ∧
      (∀ k : Fin 16, exec (.wr (BitVec.ofNat 6 (16 + k.val)) v) s =
        .next { s with cfg := { s.cfg with color := s.cfg.color.set k (v.extractLsb' 0 24) } })) ∧
    (s.drv ≠ .config → ∀ n : RegNum, (2 ≤ n.toNat ∧ n.toNat ≤ 9) ∨ (16 ≤ n.toNat ∧ n.toNat ≤ 31) →
      exec (.wr n v) s = .next { s with werr := true })

/-- The law of the register space: in CONFIG a configuration register reads back the field that was written, and no other
register reads differently (rules R44, R45, R66).  The pairs are register number and field width. -/
def Obligations.ConfigurationReadsBackWhatWasWritten : Prop :=
  ∀ (s : State) (n : RegNum) (w : Nat) (v : Word), s.drv = .config →
    ((n.toNat, w) ∈ [(2, 3), (3, 16), (4, 32), (5, 8), (6, 16), (7, 16), (8, 16), (9, 5)] ∨
      (16 ≤ n.toNat ∧ n.toNat ≤ 31 ∧ w = 24)) →
    ∃ t, exec (.wr n v) s = .next t ∧ (hostRead n t).toNat = v.toNat % 2 ^ w ∧
      ∀ m : RegNum, m ≠ n → hostRead m t = hostRead m s

/-- Rules R11, R52, R164: once the block has left CONFIG, no step but RESET changes a configuration register or leads back to
CONFIG. -/
def Obligations.ConfigurationIsLockedAfterStart : Prop :=
  ∀ s t : State, s.drv ≠ .config → resetNext s = false → step s = .next t → t.cfg = s.cfg ∧ t.drv ≠ .config

/-- Rule R24: of all steps but RESET, only an accepted START writes PATR. -/
def Obligations.ActivePatternRecordIsWrittenByStartOnly : Prop :=
  ∀ s t : State, resetNext s = false → step s = .next t →
    t.patr = s.patr ∨
      (s.drv = .config ∧ t.drv = .opening ∧ ∃ rest, s.script = .host ⟨.wr, 0, 1⟩ :: rest)

/-- Rule R21: the writers of PHASE besides reset are START (to zero) and T_ANS(ok) (the advance of rule R127). -/
def Obligations.PhaseIsWrittenByStartAndAcceptedFramesOnly : Prop :=
  ∀ s t : State, resetNext s = false → step s = .next t →
    t.phase = s.phase ∨
    (s.drv = .config ∧ t.drv = .opening ∧ t.phase = 0) ∨
    (s.drv = .emit ∧ t.drv = .wait ∧ s.patr.aPat ≠ 0 ∧
      t.phase.toNat = (s.phase.toNat + s.patr.aStep.toNat) % s.patr.aPeriod.toNat)

/-! ### The colour converter -/

/-- Rules R82, R83: HSV2RGB of a legal hue, the sector and offset given by `7680 * k + f`, with the table of rule R83; the
instruction completes in every state, leaving the operand word in CONV_IN (DEDUCED from rules R26, R60, R70: log entry 6) and
the zero-extended pixel at the port (log entry 4).  The table and the chroma formulas are the spec's own, from general
knowledge (spec/93_implementation_defined.md G1, log entry 15). -/
def Obligations.Hsv2rgbOfALegalHue : Prop :=
  ∀ (s : State) (h : BitVec 16) (sat val : Byte) (k f u : Nat), k < 6 → f < 7680 → h.toNat = 7680 * k + f →
    u = (if k % 2 = 0 then f else 7680 - f) →
    ∃ (w : Word) (p : Pixel),
      exec (.hsv2rgb h sat val) s = .next { s with convIn := w, portOut := some (p.setWidth 32) } ∧
      w.toNat = val.toNat * 2 ^ 24 + sat.toNat * 2 ^ 16 + h.toNat ∧
      let hi := val.toNat
      let lo := val.toNat * (255 - sat.toNat) / 255
      let mid := val.toNat * ((255 - sat.toNat) * 7680 + sat.toNat * u) / 1958400
      ((red p).toNat, (green p).toNat, (blue p).toNat) =
        match k with
        | 0 => (hi, mid, lo)
        | 1 => (mid, hi, lo)
        | 2 => (lo, hi, mid)
        | 3 => (lo, mid, hi)
        | 4 => (mid, lo, hi)
        | _ => (hi, lo, mid)

/-- HSV2RGB on the words is the standard conversion on the numbers the words stand for (hue = H / 128 degrees,
saturation = S / 255, value = V / 255), each channel truncated once (rules R67, R81, R83).  The chroma formulas and the sector
table are the spec's own, from general knowledge (spec/93_implementation_defined.md G1), so the basis is derived. -/
def Obligations.Hsv2rgbIsTheTruncatedStandardConversion : Prop :=
  ∀ (h : BitVec 16) (sat val : Byte), h.toNat < 46080 →
    let hue : ℚ := (h.toNat : ℚ) / 128
    let saturation : ℚ := (sat.toNat : ℚ) / 255
    let value : ℚ := (val.toNat : ℚ) / 255
    let c : ℚ := value * saturation
    let m : ℚ := value - c
    let x : ℚ := c * (1 - |hue / 60 - 2 * (⌊hue / 120⌋ : ℚ) - 1|)
    let p := hsv2rgb h sat val
    let rgb1 : ℚ × ℚ × ℚ :=
      match ⌊hue / 60⌋ with
      | 0 => (c, x, 0)
      | 1 => (x, c, 0)
      | 2 => (0, c, x)
      | 3 => (0, x, c)
      | 4 => (x, 0, c)
      | _ => (c, 0, x)
    ((red p).toNat : ℤ) = ⌊255 * (rgb1.1 + m)⌋ ∧
    ((green p).toNat : ℤ) = ⌊255 * (rgb1.2.1 + m)⌋ ∧
    ((blue p).toNat : ℤ) = ⌊255 * (rgb1.2.2 + m)⌋

/-- Rule R84 (b), (c): with S = V = 255 exactly one channel is 255, except at 60, 180 and 300 degrees, where exactly two are;
at 0, 120 and 240 degrees the other two are 0.  The spec marks the rule as derived. -/
def Obligations.FullySaturatedHuesHaveOneFullChannel : Prop :=
  ∀ h : BitVec 16, h.toNat < 46080 →
    let p := hsv2rgb h 255 255
    ([red p, green p, blue p].filter (· == 255)).length =
      (if h.toNat = 7680 ∨ h.toNat = 23040 ∨ h.toNat = 38400 then 2 else 1) ∧
    (h.toNat = 0 → p = 0xFF0000) ∧
    (h.toNat = 15360 → p = 0x00FF00) ∧
    (h.toNat = 30720 → p = 0x0000FF)

/-- Rule R83, corner cases: every channel lies between lo and V and one of them is V; no saturation is grey, no value is
black, whatever the hue. -/
def Obligations.Hsv2rgbChannelsLieBetweenLoAndValue : Prop :=
  ∀ (h : BitVec 16) (sat val : Byte), h.toNat < 46080 →
    let p := hsv2rgb h sat val
    let lo := val.toNat * (255 - sat.toNat) / 255
    (∀ c ∈ [red p, green p, blue p], lo ≤ c.toNat ∧ c.toNat ≤ val.toNat) ∧
    val ∈ [red p, green p, blue p] ∧
    (sat = 0 → red p = val ∧ green p = val ∧ blue p = val) ∧
    (val = 0 → p = 0)

/-- Rule R85: a hue of 46080 or more reads ILL = 1 and RGB = 0 and is not wrapped; nothing but CONV_IN and the port changes.
The RGB value is the spec's decision D7 (log entry 15); that HSV2RGB stores its operand word in CONV_IN is DEDUCED from rule R70
(log entry 6), and the port is the model's (log entry 4). -/
def Obligations.IllegalHueReadsIllAndBlack : Prop :=
  ∀ (s : State) (h : BitVec 16) (sat val : Byte), 46080 ≤ h.toNat →
    ∃ w : Word, w.toNat = val.toNat * 2 ^ 24 + sat.toNat * 2 ^ 16 + h.toNat ∧
      exec (.hsv2rgb h sat val) s = .next { s with convIn := w, portOut := some 0x80000000 }

/-- Rules R88, R89: SCALE completes in every state; each channel is the low 8 bits of the quotient, the three independent.
That SCALE stores its operand word in SCALE_IN is DEDUCED from rules R26, R65, R70 (log entry 6), the port is the model's (log
entry 4), and the low 8 bits above 100 percent are the spec's decision D9 (log entry 15). -/
def Obligations.ScaleMultipliesAndTruncatesEachChannel : Prop :=
  ∀ (s : State) (pix : Pixel) (pct : Byte),
    ∃ (w : Word) (p : Pixel),
      exec (.scale pix pct) s = .next { s with scaleIn := w, portOut := some (p.setWidth 32) } ∧
      w.toNat = pct.toNat * 2 ^ 24 + pix.toNat ∧
      (red p).toNat = (red pix).toNat * pct.toNat / 100 % 256 ∧
      (green p).toNat = (green pix).toNat * pct.toNat / 100 % 256 ∧
      (blue p).toNat = (blue pix).toNat * pct.toNat / 100 % 256

/-- Rule R88, corner cases: 100 percent is the identity, 0 percent is black, up to 100 percent no channel grows. -/
def Obligations.ScaleIsTheIdentityAtHundredAndNeverGrows : Prop :=
  ∀ p : Pixel, scale p 100 = p ∧ scale p 0 = 0 ∧
    ∀ pct : Byte, pct.toNat ≤ 100 →
      (red (scale p pct)).toNat ≤ (red p).toNat ∧ (green (scale p pct)).toNat ≤ (green p).toNat ∧
      (blue (scale p pct)).toNat ≤ (blue p).toNat

/-- Rule R26: two states that differ only in the function-unit registers and the last read value take the same step: same
frames, same driver state, same everything else. -/
def Obligations.UnitsShareNothingWithTheSequencer : Prop :=
  ∀ s s' t : State, withoutUnits s = withoutUnits s' → step s = .next t →
    ∃ t', step s' = .next t' ∧ withoutUnits t = withoutUnits t'

/-- Rules R26, R46: an access to the function-unit registers, in either form, and every read leave the sequencer's state
alone. -/
def Obligations.UnitAccessesLeaveTheSequencerAlone : Prop :=
  ∀ (s t : State) (i : Instr),
    ((∃ h sat val, i = .hsv2rgb h sat val) ∨ (∃ pix pct, i = .scale pix pct) ∨ (∃ n, i = .rd n) ∨
      (∃ v, i = .wr 11 v) ∨ (∃ v, i = .wr 13 v)) →
    exec i s = .next t → withoutUnits t = withoutUnits s

/-! ### The host commands -/

/-- Rule R122, the accepted construction: PATR loaded field by field with the clamp of rule R15 and the table of rule R108,
PHASE zero, one OpenReq. -/
def Obligations.StartLoadsThePatternRecord : Prop :=
  ∀ s : State, s.drv = .config → s.cfg.pat.toNat < 6 →
    (s.cfg.pat = 2 → 1 ≤ s.cfg.ncol.toNat ∧ s.cfg.ncol.toNat ≤ 16) →
    (s.cfg.pat = 5 → 1 ≤ s.cfg.onTicks.toNat + s.cfg.offTicks.toNat) →
    ∃ p : Patr,
      exec .start s =
        .next { s with patr := p, phase := 0, drv := .opening, history := s.history ++ [.openReq] } ∧
      p.aPat = s.cfg.pat ∧ p.aNled = s.cfg.ledCount ∧ p.aInterval = s.cfg.interval ∧
      p.aBright.toNat = min s.cfg.bright.toNat 100 ∧ p.aNcol = s.cfg.ncol ∧ p.aOn = s.cfg.onTicks ∧
      p.aOff = s.cfg.offTicks ∧
      (∀ k : Fin 16, p.aColor.get k = scale (s.cfg.color.get k) p.aBright) ∧
      (s.cfg.pat = 0 ∨ s.cfg.pat = 1 → p.aStep = 0 ∧ p.aPeriod = 1) ∧
      (s.cfg.pat = 2 → p.aStep = 1 ∧ p.aPeriod.toNat = max s.cfg.ledCount.toNat 1) ∧
      (s.cfg.pat = 3 ∨ s.cfg.pat = 4 → p.aStep = s.cfg.hueRate ∧ p.aPeriod.toNat = 46080) ∧
      (s.cfg.pat = 5 → p.aStep = 1 ∧ p.aPeriod.toNat = s.cfg.onTicks.toNat + s.cfg.offTicks.toNat)

/-- Rules R141, R144: the first failing check ends the run with its cause; PATR, PHASE and the history are unchanged and no
OpenReq is emitted. -/
def Obligations.StartReportsTheFirstFailingCheck : Prop :=
  ∀ s : State, s.drv = .config →
    (6 ≤ s.cfg.pat.toNat →
      exec .start s = .next { s with drv := .terminated, exit := .construct, cause := .patternCode }) ∧
    (s.cfg.pat = 2 → s.cfg.ncol.toNat = 0 ∨ 16 < s.cfg.ncol.toNat →
      exec .start s = .next { s with drv := .terminated, exit := .construct, cause := .colourCount }) ∧
    (s.cfg.pat = 5 → s.cfg.onTicks.toNat + s.cfg.offTicks.toNat = 0 →
      exec .start s = .next { s with drv := .terminated, exit := .construct, cause := .flashPeriod })

/-- Rule R122: outside CONFIG, START sets WERR and nothing else. -/
def Obligations.StartOutsideConfigIsRefused : Prop :=
  ∀ s : State, s.drv ≠ .config → exec .start s = .next { s with werr := true }

/-- Rule R123: CANCEL is latched in OPENING, TICK, EMIT and WAIT; in CONFIG and TERMINATED it sets WERR. -/
def Obligations.CancelIsLatchedOrRefused : Prop :=
  ∀ s : State,
    (s.drv = .opening ∨ s.drv = .tick ∨ s.drv = .emit ∨ s.drv = .wait →
      exec .cancel s = .next { s with cancelPend := true }) ∧
    (s.drv = .config ∨ s.drv = .terminated → exec .cancel s = .next { s with werr := true })

/-! ### The patterns.  A pattern instruction is one S_TICK (log entry 5).  That PIX is 0 after it is DEDUCED (log entry 10). -/

/-- Rule R101: OFF emits A_NLED zero pixels, whatever the parameters. -/
def Obligations.OffTickEmitsZeros : Prop :=
  ∀ s : State, s.drv = .tick → s.cancelPend = false →
    exec .off s = .next { s with
      drv := .emit, pix := 0, history := s.history ++ [.frameOut (List.replicate s.patr.aNled.toNat 0)] }

/-- Rule R102: STATIC emits A_NLED copies of A_COLOR[0]. -/
def Obligations.StaticTickEmitsTheColour : Prop :=
  ∀ s : State, s.drv = .tick → s.cancelPend = false →
    exec .static s = .next { s with
      drv := .emit, pix := 0
      history := s.history ++ [.frameOut (List.replicate s.patr.aNled.toNat (s.patr.aColor.get 0))] }

/-- Rules R47, R103: pixel i of WIPE is A_COLOR[(i + PHASE) mod A_NCOL], the sum formed without wrap. -/
def Obligations.WipeTickEmitsTheBands : Prop :=
  ∀ s : State, s.drv = .tick → s.cancelPend = false →
    (s.patr.aNled = 0 ∨
      (1 ≤ s.patr.aNcol.toNat ∧ ∀ i, i < s.patr.aNled.toNat → (i + s.phase.toNat) % s.patr.aNcol.toNat < 16)) →
    ∃ f : List Pixel,
      exec .wipe s = .next { s with drv := .emit, pix := 0, history := s.history ++ [.frameOut f] } ∧
      f.length = s.patr.aNled.toNat ∧
      ∀ (i : Nat) (k : Fin 16), i < s.patr.aNled.toNat → (i + s.phase.toNat) % s.patr.aNcol.toNat = k.val →
        f[i]? = some (s.patr.aColor.get k)

/-- Rules R104, R107: every pixel of BRSYNC is the hue PHASE at full saturation and value, scaled by A_BRIGHT. -/
def Obligations.BrsyncTickEmitsOneHue : Prop :=
  ∀ s : State, s.drv = .tick → s.cancelPend = false → s.patr.aNled = 0 ∨ s.phase.toNat < 46080 →
    exec .brsync s = .next { s with
      drv := .emit, pix := 0
      history := s.history ++ [.frameOut (List.replicate s.patr.aNled.toNat
        (scale (hsv2rgb (BitVec.ofNat 16 s.phase.toNat) 255 255) s.patr.aBright))] }

/-- Rules R105, R107: pixel i of BROFF has the hue (PHASE + floor(i × 46080 / A_NLED)) mod 46080. -/
def Obligations.BroffTickSpreadsTheHues : Prop :=
  ∀ s : State, s.drv = .tick → s.cancelPend = false → s.patr.aNled = 0 ∨ s.phase.toNat < 46080 →
    ∃ f : List Pixel,
      exec .broff s = .next { s with drv := .emit, pix := 0, history := s.history ++ [.frameOut f] } ∧
      f.length = s.patr.aNled.toNat ∧
      ∀ i, i < s.patr.aNled.toNat →
        f[i]? = some (scale (hsv2rgb
          (BitVec.ofNat 16 ((s.phase.toNat + i * 46080 / s.patr.aNled.toNat) % 46080)) 255 255) s.patr.aBright)

/-- Rule R106: FLASH shows A_COLOR[0] while the phase is in the on part of its period, else zero pixels. -/
def Obligations.FlashTickIsOnOrOff : Prop :=
  ∀ s : State, s.drv = .tick → s.cancelPend = false →
    s.patr.aNled = 0 ∨ 1 ≤ s.patr.aOn.toNat + s.patr.aOff.toNat →
    exec .flash s = .next { s with
      drv := .emit, pix := 0
      history := s.history ++ [.frameOut (List.replicate s.patr.aNled.toNat
        (if s.phase.toNat % (s.patr.aOn.toNat + s.patr.aOff.toNat) < s.patr.aOn.toNat then s.patr.aColor.get 0
          else 0))] }

/-- Rules R125, R146: a pending cancellation wins over another frame, whatever the pattern and its parameters; no frame is
emitted. -/
def Obligations.PendingCancellationWinsOverEveryPattern : Prop :=
  ∀ (s : State) (i : Instr), i ∈ [Instr.off, .static, .wipe, .brsync, .broff, .flash] → s.drv = .tick →
    s.cancelPend = true → exec i s = .next { s with drv := .terminated, exit := .cancelled, cause := .noCause }

/-- The model's choice (log entry 2): a pattern asked for outside the tick boundary, where S_TICK is not enabled (rule R125),
does nothing. -/
def Obligations.PatternOutsideItsTickPasses : Prop :=
  ∀ (s : State) (i : Instr), i ∈ [Instr.off, .static, .wipe, .brsync, .broff, .flash] → s.drv ≠ .tick →
    exec i s = .next s

/-- The model's choice (log entry 13): where a rule says that operands cannot occur and they are asked for all the same, the
machine stops by name; the sequencer's turn is the listed one or, with nothing listed, its own (log entry 1).  With the
completion statements this covers every form of the six patterns and of T_ANS. -/
def Obligations.ExcludedOperandsStopByName : Prop :=
  ∀ s : State,
    (s.drv = .tick → s.cancelPend = false → s.patr.aNled ≠ 0 →
      (s.patr.aNcol = 0 → exec .wipe s = .fault .wipeNoColours) ∧
      (s.patr.aNcol ≠ 0 → (∃ i, i < s.patr.aNled.toNat ∧ 16 ≤ (i + s.phase.toNat) % s.patr.aNcol.toNat) →
        ∃ j, 16 ≤ j ∧ exec .wipe s = .fault (.wipeIndex j)) ∧
      (46080 ≤ s.phase.toNat →
        exec .brsync s = .fault (.illegalHue s.phase) ∧ exec .broff s = .fault (.illegalHue s.phase)) ∧
      (s.patr.aOn.toNat + s.patr.aOff.toNat = 0 → exec .flash s = .fault .flashZeroPeriod)) ∧
    (s.drv = .tick → s.cancelPend = false → 6 ≤ s.patr.aPat.toNat →
      (s.script = [] ∨ ∃ rest, s.script = .tick :: rest) → step s = .fault (.reservedPattern s.patr.aPat)) ∧
    (∀ rest, s.drv = .emit → s.patr.aPat ≠ 0 → s.patr.aPeriod = 0 → s.script = .tAns .ok :: rest →
      step s = .fault .zeroPeriod)

/-- Rules R100, R125: the sequencer's turn honours a pending cancellation, else hands over GenFrame(PATR, PHASE, A_NLED), the
pattern chosen by A_PAT; PHASE is read, not written.  That the sequencer takes its turn by itself when no move is listed is the
model's choice (log entry 1). -/
def Obligations.SequencerTurnHandsOverGenFrame : Prop :=
  ∀ (s : State) (f : List Pixel), s.drv = .tick → (s.script = [] ∨ ∃ rest, s.script = .tick :: rest) →
    (s.cancelPend = true → step s = .next { s with
      drv := .terminated, exit := .cancelled, cause := .noCause, script := s.script.tail }) ∧
    (s.cancelPend = false → genFrame s.patr s.phase s.patr.aNled.toNat = .ok f → step s = .next { s with
      drv := .emit, pix := 0, history := s.history ++ [.frameOut f], script := s.script.tail })

/-- Rules R48, R100, R109: a frame has exactly as many pixels as asked for, and a constructed record with its phase in the
period always has one. -/
def Obligations.GenFrameHasOnePixelPerLed : Prop :=
  ∀ (p : Patr) (phase : BitVec 18) (n : Nat),
    (∀ f, genFrame p phase n = .ok f → f.length = n) ∧
    (p.Constructed → phase.toNat < p.aPeriod.toNat → ∃ f, genFrame p phase n = .ok f)

/-- Rules R100, R101, R102, R104, R106: the frames of the four uniform patterns, for every number of pixels; the pixel of BRSYNC
is the `hue_px` of rule R107 (the spec's decisions D10, D11). -/
def Obligations.UniformPatternsRepeatOnePixel : Prop :=
  ∀ (p : Patr) (phase : BitVec 18) (n : Nat),
    (p.aPat = 0 → genFrame p phase n = .ok (List.replicate n 0)) ∧
    (p.aPat = 1 → genFrame p phase n = .ok (List.replicate n (p.aColor.get 0))) ∧
    (p.aPat = 3 → phase.toNat < 46080 → genFrame p phase n =
      .ok (List.replicate n (scale (hsv2rgb (BitVec.ofNat 16 phase.toNat) 255 255) p.aBright))) ∧
    (p.aPat = 5 → 1 ≤ p.aOn.toNat + p.aOff.toNat → genFrame p phase n =
      .ok (List.replicate n (if phase.toNat % (p.aOn.toNat + p.aOff.toNat) < p.aOn.toNat then p.aColor.get 0 else 0)))

/-- Rules R100, R103, R105: pixel i of WIPE and of BROFF, for every number of pixels; the offset of BROFF is truncated (the
spec's decision D17) and its pixel is the `hue_px` of rule R107 (D10, D11). -/
def Obligations.BandedPatternsComputeEachPixel : Prop :=
  ∀ (p : Patr) (phase : BitVec 18) (n : Nat),
    (p.aPat = 2 → 1 ≤ p.aNcol.toNat → p.aNcol.toNat ≤ 16 → ∃ f, genFrame p phase n = .ok f ∧ f.length = n ∧
      ∀ (i : Nat) (k : Fin 16), i < n → (i + phase.toNat) % p.aNcol.toNat = k.val → f[i]? = some (p.aColor.get k)) ∧
    (p.aPat = 4 → phase.toNat < 46080 → ∃ f, genFrame p phase n = .ok f ∧ f.length = n ∧
      ∀ i, i < n → f[i]? = some (scale (hsv2rgb
        (BitVec.ofNat 16 ((phase.toNat + i * 46080 / n) % 46080)) 255 255) p.aBright))

/-- Rule R105: every offset is a legal hue, the first is 0, neighbours are evenly spaced up to one hue unit, the wrap is the
remainder by one turn, and four LEDs are 90 degrees apart. -/
def Obligations.BroffOffsetsAreEvenlySpaced : Prop :=
  ∀ n i : Nat, i < n →
    hueOffset n i < 46080 ∧ hueOffset n 0 = 0 ∧
    46080 / n ≤ hueOffset n (i + 1) - hueOffset n i ∧ hueOffset n (i + 1) - hueOffset n i ≤ 46080 / n + 1 ∧
    (∀ phase, phase < 46080 → wrapHue (phase + hueOffset n i) = (phase + hueOffset n i) % 46080) ∧
    (n = 4 → hueOffset n i = i * 11520)

/-! ### The transport, the timer and RESET -/

/-- Rule R124: the answer to OpenReq starts the run or ends it with EXIT = OPEN; it is recorded in the history (log
entry 3). -/
def Obligations.OpenAnswerStartsOrEndsTheRun : Prop :=
  ∀ (s : State) (rest : List Event), s.drv = .opening →
    (s.script = .tOpen .ok :: rest → step s = .next { s with
      drv := .tick, history := s.history ++ [.openAns .ok], script := rest }) ∧
    (s.script = .tOpen .err :: rest → step s = .next { s with
      drv := .terminated, exit := .openFailed, cause := .noCause
      history := s.history ++ [.openAns .err], script := rest })

/-- Rules R126, R127: the error test before the OFF test; OFF ends with SUCCESS; every other pattern advances the phase by
its step modulo its period and waits. -/
def Obligations.TransmitAnswerAdvancesOrEndsTheRun : Prop :=
  ∀ (s : State) (rest : List Event), s.drv = .emit →
    (s.script = .tAns .err :: rest → step s = .next { s with
      drv := .terminated, exit := .transport, cause := .noCause
      history := s.history ++ [.transAns .err], script := rest }) ∧
    (s.script = .tAns .ok :: rest → s.patr.aPat = 0 → step s = .next { s with
      drv := .terminated, exit := .success, cause := .noCause
      history := s.history ++ [.transAns .ok], script := rest }) ∧
    (s.script = .tAns .ok :: rest → s.patr.aPat ≠ 0 → 1 ≤ s.patr.aPeriod.toNat →
      ∃ ph : BitVec 18, ph.toNat = (s.phase.toNat + s.patr.aStep.toNat) % s.patr.aPeriod.toNat ∧
        step s = .next { s with
          drv := .wait, phase := ph, history := s.history ++ [.transAns .ok], script := rest })

/-- Rule R128: TMR in WAIT returns to the tick boundary and does nothing else; no rule reads the interval. -/
def Obligations.TimerOnlyReturnsToTheTick : Prop :=
  ∀ (s : State) (rest : List Event), s.drv = .wait → s.script = .tmr :: rest →
    step s = .next { s with drv := .tick, script := rest }

/-- The model's choice (log entry 2): a move whose step is not enabled in the present driver state (rule R120) is passed over
without effect. -/
def Obligations.MovesThatAreNotEnabledPass : Prop :=
  ∀ (s : State) (e : Event) (rest : List Event), s.script = e :: rest →
    (((∃ a, e = .tOpen a) ∧ s.drv ≠ .opening) ∨ ((∃ a, e = .tAns a) ∧ s.drv ≠ .emit) ∨
      (e = .tmr ∧ s.drv ≠ .wait) ∨ (e = .tick ∧ s.drv ≠ .tick)) →
    step s = .next { s with script := rest }

/-- Rules R30, R160: RESET, in every driver state, sets every element to the value of the table; the history of the run is
closed and kept (log entry 3), the host's moves and last read value are not the block's (log entries 1, 4). -/
def Obligations.ResetRestoresEveryElement : Prop :=
  ∀ (s : State) (rest : List Event), s.script = .reset :: rest →
    ∃ t : State, step s = .next t ∧
      t.drv = .config ∧ t.phase = 0 ∧ t.exit = .success ∧ t.cause = .noCause ∧ t.cancelPend = false ∧ t.werr = false ∧
      t.cfg.pat = 0 ∧ t.cfg.ledCount = 15 ∧ t.cfg.interval = 0 ∧ t.cfg.bright = 100 ∧ t.cfg.hueRate = 0 ∧
      t.cfg.onTicks = 0 ∧ t.cfg.offTicks = 0 ∧ t.cfg.ncol = 0 ∧ (∀ k, t.cfg.color.get k = 0) ∧
      t.convIn = 0 ∧ t.scaleIn = 0 ∧
      t.patr.aPat = 0 ∧ t.patr.aNled = 0 ∧ t.patr.aInterval = 0 ∧ t.patr.aBright = 0 ∧ t.patr.aNcol = 0 ∧
      t.patr.aOn = 0 ∧ t.patr.aOff = 0 ∧ (∀ k, t.patr.aColor.get k = 0) ∧ t.patr.aStep = 0 ∧ t.patr.aPeriod = 1 ∧
      t.pix = 0 ∧ t.outstanding = none ∧ t.timerArmed = none ∧
      t.history = [] ∧ t.pastRuns = s.pastRuns ++ [s.history] ∧ t.portOut = s.portOut ∧ t.script = rest

/-- Rule R30: the state after reset, element by element. -/
def Obligations.ResetStateHasTheTableValues : Prop :=
  State.reset.drv = .config ∧ State.reset.phase = 0 ∧ State.reset.exit = .success ∧ State.reset.cause = .noCause ∧
  State.reset.cancelPend = false ∧ State.reset.werr = false ∧ State.reset.cfg.pat = 0 ∧
  State.reset.cfg.ledCount = 15 ∧ State.reset.cfg.interval = 0 ∧ State.reset.cfg.bright = 100 ∧
  State.reset.cfg.hueRate = 0 ∧ State.reset.cfg.onTicks = 0 ∧ State.reset.cfg.offTicks = 0 ∧
  State.reset.cfg.ncol = 0 ∧ (∀ k, State.reset.cfg.color.get k = 0) ∧ State.reset.convIn = 0 ∧
  State.reset.scaleIn = 0 ∧ State.reset.patr.aPat = 0 ∧ State.reset.patr.aNled = 0 ∧
  State.reset.patr.aInterval = 0 ∧ State.reset.patr.aBright = 0 ∧ State.reset.patr.aNcol = 0 ∧
  State.reset.patr.aOn = 0 ∧ State.reset.patr.aOff = 0 ∧ (∀ k, State.reset.patr.aColor.get k = 0) ∧
  State.reset.patr.aStep = 0 ∧ State.reset.patr.aPeriod = 1 ∧ State.reset.pix = 0 ∧
  State.reset.outstanding = none ∧ State.reset.timerArmed = none

/-! ### Whole-machine rules -/

/-- Rule R120: the transitions of DRV, each with its step and its condition, and no other.  That the sequencer steps by itself
when no move is listed is the model's choice (log entry 1). -/
def Obligations.DriverStateFollowsTheTransitionTable : Prop :=
  ∀ s t : State, step s = .next t → t.drv ≠ s.drv →
    let move := s.script.head?
    (s.drv = .config ∧ t.drv = .opening ∧ move = some (.host ⟨.wr, 0, 1⟩)) ∨
    (s.drv = .config ∧ t.drv = .terminated ∧ t.exit = .construct ∧ t.cause ≠ .noCause ∧
      move = some (.host ⟨.wr, 0, 1⟩)) ∨
    (s.drv = .opening ∧ t.drv = .tick ∧ move = some (.tOpen .ok)) ∨
    (s.drv = .opening ∧ t.drv = .terminated ∧ t.exit = .openFailed ∧ move = some (.tOpen .err)) ∨
    (s.drv = .tick ∧ t.drv = .terminated ∧ s.cancelPend = true ∧ t.exit = .cancelled ∧
      (move = none ∨ move = some .tick)) ∨
    (s.drv = .tick ∧ t.drv = .emit ∧ s.cancelPend = false ∧ (move = none ∨ move = some .tick)) ∨
    (s.drv = .emit ∧ t.drv = .terminated ∧ t.exit = .transport ∧ move = some (.tAns .err)) ∨
    (s.drv = .emit ∧ t.drv = .terminated ∧ t.exit = .success ∧ s.patr.aPat = 0 ∧ move = some (.tAns .ok)) ∨
    (s.drv = .emit ∧ t.drv = .wait ∧ s.patr.aPat ≠ 0 ∧ move = some (.tAns .ok)) ∨
    (s.drv = .wait ∧ t.drv = .tick ∧ move = some .tmr) ∨
    (t.drv = .config ∧ move = some .reset)

/-- Rules R129, R147: in TERMINATED no step but RESET changes the exit, the cause, the phase, PATR, the configuration or the
history, and none but RESET leaves it. -/
def Obligations.TerminatedIsLeftOnlyByReset : Prop :=
  ∀ s t : State, s.drv = .terminated → resetNext s = false → step s = .next t →
    t.drv = .terminated ∧ t.exit = s.exit ∧ t.cause = s.cause ∧ t.phase = s.phase ∧ t.patr = s.patr ∧ t.cfg = s.cfg ∧
    t.history = s.history ∧ t.cancelPend = s.cancelPend

/-- Rules R27, R145: WERR and CANCEL_PEND are cleared only by reset; CANCEL_PEND is set only by a CANCEL in a run; EXIT and
CAUSE change only when the run ends. -/
def Obligations.FlagsAreClearedOnlyByReset : Prop :=
  ∀ s t : State, resetNext s = false → step s = .next t →
    (s.werr = true → t.werr = true) ∧ (s.cancelPend = true → t.cancelPend = true) ∧
    (t.cancelPend ≠ s.cancelPend → s.drv.active = true ∧ ∃ rest, s.script = .host ⟨.wr, 0, 2⟩ :: rest) ∧
    (t.exit ≠ s.exit ∨ t.cause ≠ s.cause → t.drv = .terminated ∧ s.drv ≠ .terminated)

/-- Rule R29: the block only appends to the output history, at most one event a step; RESET closes the run's history and
keeps it (log entry 3).  The events of one step are told apart by rule R51: OpenReq only from CONFIG, a frame only from a
tick boundary. -/
def Obligations.HistoryIsOnlyAppendedTo : Prop :=
  ∀ s t : State, step s = .next t →
    (resetNext s = true → t.history = [] ∧ t.pastRuns = s.pastRuns ++ [s.history]) ∧
    (resetNext s = false → t.pastRuns = s.pastRuns ∧
      (t.history = s.history ∨ ∃ e, t.history = s.history ++ [e] ∧
        (e = .openReq → s.drv = .config) ∧ (∀ f, e = .frameOut f → s.drv = .tick ∧ f.length = s.patr.aNled.toNat) ∧
        (∀ a, e = .openAns a → s.drv = .opening) ∧ (∀ a, e = .transAns a → s.drv = .emit)))

/-- Rule R28: the invariant holds at reset. -/
def Obligations.ResetStateMeetsTheInvariant : Prop := Inv State.reset

/-- Rule R28: every step keeps the invariant, from every state that meets it. -/
def Obligations.StepKeepsTheInvariant : Prop :=
  ∀ s t : State, Inv s → step s = .next t → Inv t

/-- No state that meets the invariant stops: every step of every agent answers a next state (rules R47, R81, R110, R140: no
operation can fail).  That a listed move which is not enabled answers a next state as well is the model's choice (log entry 2:
rule R120 says that such a step does not exist), as is the step with no move listed (log entry 1). -/
def Obligations.InvariantStatesNeverStop : Prop :=
  ∀ s : State, Inv s → Safe s

/-- Rule R131: the history of the reset state has the shape. -/
def Obligations.ResetStateHasTheHistoryShape : Prop := HistoryShape State.reset

/-- Rule R131: every step keeps the shape of the output history: one OpenReq before every frame, the k-th frame the k-th of
rule R131 (b), at most one frame for OFF, nothing after a failure. -/
def Obligations.StepKeepsTheHistoryShape : Prop :=
  ∀ s t : State, Inv s → HistoryShape s → step s = .next t → HistoryShape t

/-- Rules R51, R131 as facts about any history of the shape: at most one OpenReq, and it is the first event; the frames are the
first frames of the run, in order; under a constructed PATR (rule R28) every frame has A_NLED pixels; SUCCESS only for OFF
after one accepted all-zero frame. -/
def Obligations.ShapedHistoriesHoldTheFactsOfARun : Prop :=
  ∀ s : State, HistoryShape s →
    s.history.count .openReq ≤ 1 ∧
    (s.history ≠ [] → s.history.head? = some .openReq) ∧
    (∃ k, framesOf s.history = (List.range k).map (frameAt s.patr) ∧ (s.patr.aPat = 0 → k ≤ 1)) ∧
    (s.patr.Constructed → ∀ f ∈ framesOf s.history, f.length = s.patr.aNled.toNat) ∧
    (s.drv = .terminated → s.exit = .success →
      s.patr.aPat = 0 ∧ framesOf s.history = [List.replicate s.patr.aNled.toNat 0])

/-- Rules R127, R170 (b): for a hue pattern a rate acts as its remainder by one turn; a rate of one whole turn freezes the
hue. -/
def Obligations.HueRateActsModuloOneTurn : Prop :=
  ∀ (p q : Patr) (phase : BitVec 18), p.aPeriod.toNat = 46080 → q.aPeriod.toNat = 46080 → phase.toNat < 46080 →
    (p.aStep.toNat % 46080 = q.aStep.toNat % 46080 → nextPhase p phase = nextPhase q phase) ∧
    (p.aStep.toNat = 46080 → nextPhase p phase = phase)

/-- Rule R130: one tick of a running pattern is S_TICK, T_ANS(ok), TMR, and it comes back to a tick boundary with one more
frame handed over and the phase advanced once. -/
def Obligations.OneTickIsTickAnswerTimer : Prop :=
  ∀ (s : State) (rest : List Event), Inv s → s.drv = .tick → s.cancelPend = false → s.patr.aPat ≠ 0 →
    s.script = .tick :: .tAns .ok :: .tmr :: rest →
    ∃ f t, genFrame s.patr s.phase s.patr.aNled.toNat = .ok f ∧ core.run 3 s = .next t ∧ t.drv = .tick ∧
      t.history = s.history ++ [.frameOut f, .transAns .ok] ∧
      t.phase.toNat = (s.phase.toNat + s.patr.aStep.toNat) % s.patr.aPeriod.toNat ∧
      t.patr = s.patr ∧ t.cfg = s.cfg ∧ t.script = rest

/-- Rule R168: a CANCEL accepted in the wait takes effect at the next tick boundary: the wait is not shortened, no frame is
emitted, and the run ends with EXIT = CANCELLED and the pending bit kept. -/
def Obligations.CancelInTheWaitEndsAtTheNextTick : Prop :=
  ∀ (s : State) (rest : List Event), s.drv = .wait →
    s.script = .host ⟨.wr, 0, 2⟩ :: .tmr :: .tick :: rest →
    core.run 1 s = .next { s with cancelPend := true, script := .tmr :: .tick :: rest } ∧
    core.run 3 s = .next { s with
      cancelPend := true, drv := .terminated, exit := .cancelled, cause := .noCause, script := rest }
end

