-- ==== Sys2Proof/Laws/State.lean ====
section
/-! SUPPORT. One lemma per field per named update of State, each true by rfl, so that no later proof unfolds a record update;
and the basic laws of the colour table. -/

namespace Sys2Proof.Machine

@[simp] theorem emit_cfg (e : OutEvent) (s : State) : (emit e s).cfg = s.cfg := rfl
@[simp] theorem emit_drv (e : OutEvent) (s : State) : (emit e s).drv = s.drv := rfl
@[simp] theorem emit_phase (e : OutEvent) (s : State) : (emit e s).phase = s.phase := rfl
@[simp] theorem emit_exit (e : OutEvent) (s : State) : (emit e s).exit = s.exit := rfl
@[simp] theorem emit_cause (e : OutEvent) (s : State) : (emit e s).cause = s.cause := rfl
@[simp] theorem emit_cancelPend (e : OutEvent) (s : State) : (emit e s).cancelPend = s.cancelPend := rfl
@[simp] theorem emit_werr (e : OutEvent) (s : State) : (emit e s).werr = s.werr := rfl
@[simp] theorem emit_convIn (e : OutEvent) (s : State) : (emit e s).convIn = s.convIn := rfl
@[simp] theorem emit_scaleIn (e : OutEvent) (s : State) : (emit e s).scaleIn = s.scaleIn := rfl
@[simp] theorem emit_patr (e : OutEvent) (s : State) : (emit e s).patr = s.patr := rfl
@[simp] theorem emit_pix (e : OutEvent) (s : State) : (emit e s).pix = s.pix := rfl
@[simp] theorem emit_history (e : OutEvent) (s : State) : (emit e s).history = s.history ++ [e] := rfl
@[simp] theorem emit_pastRuns (e : OutEvent) (s : State) : (emit e s).pastRuns = s.pastRuns := rfl
@[simp] theorem emit_portOut (e : OutEvent) (s : State) : (emit e s).portOut = s.portOut := rfl
@[simp] theorem emit_script (e : OutEvent) (s : State) : (emit e s).script = s.script := rfl

@[simp] theorem raiseFatal_cfg (e : ExitCode) (c : Cause) (s : State) : (raiseFatal e c s).cfg = s.cfg := rfl
@[simp] theorem raiseFatal_drv (e : ExitCode) (c : Cause) (s : State) : (raiseFatal e c s).drv = .terminated := rfl
@[simp] theorem raiseFatal_phase (e : ExitCode) (c : Cause) (s : State) : (raiseFatal e c s).phase = s.phase := rfl
@[simp] theorem raiseFatal_exit (e : ExitCode) (c : Cause) (s : State) : (raiseFatal e c s).exit = e := rfl
@[simp] theorem raiseFatal_cause (e : ExitCode) (c : Cause) (s : State) : (raiseFatal e c s).cause = c := rfl
@[simp] theorem raiseFatal_cancelPend (e : ExitCode) (c : Cause) (s : State) : (raiseFatal e c s).cancelPend = s.cancelPend := rfl
@[simp] theorem raiseFatal_werr (e : ExitCode) (c : Cause) (s : State) : (raiseFatal e c s).werr = s.werr := rfl
@[simp] theorem raiseFatal_convIn (e : ExitCode) (c : Cause) (s : State) : (raiseFatal e c s).convIn = s.convIn := rfl
@[simp] theorem raiseFatal_scaleIn (e : ExitCode) (c : Cause) (s : State) : (raiseFatal e c s).scaleIn = s.scaleIn := rfl
@[simp] theorem raiseFatal_patr (e : ExitCode) (c : Cause) (s : State) : (raiseFatal e c s).patr = s.patr := rfl
@[simp] theorem raiseFatal_pix (e : ExitCode) (c : Cause) (s : State) : (raiseFatal e c s).pix = s.pix := rfl
@[simp] theorem raiseFatal_history (e : ExitCode) (c : Cause) (s : State) : (raiseFatal e c s).history = s.history := rfl
@[simp] theorem raiseFatal_pastRuns (e : ExitCode) (c : Cause) (s : State) : (raiseFatal e c s).pastRuns = s.pastRuns := rfl
@[simp] theorem raiseFatal_portOut (e : ExitCode) (c : Cause) (s : State) : (raiseFatal e c s).portOut = s.portOut := rfl
@[simp] theorem raiseFatal_script (e : ExitCode) (c : Cause) (s : State) : (raiseFatal e c s).script = s.script := rfl

@[simp] theorem setWerr_cfg (s : State) : (setWerr s).cfg = s.cfg := rfl
@[simp] theorem setWerr_drv (s : State) : (setWerr s).drv = s.drv := rfl
@[simp] theorem setWerr_phase (s : State) : (setWerr s).phase = s.phase := rfl
@[simp] theorem setWerr_exit (s : State) : (setWerr s).exit = s.exit := rfl
@[simp] theorem setWerr_cause (s : State) : (setWerr s).cause = s.cause := rfl
@[simp] theorem setWerr_cancelPend (s : State) : (setWerr s).cancelPend = s.cancelPend := rfl
@[simp] theorem setWerr_werr (s : State) : (setWerr s).werr = true := rfl
@[simp] theorem setWerr_convIn (s : State) : (setWerr s).convIn = s.convIn := rfl
@[simp] theorem setWerr_scaleIn (s : State) : (setWerr s).scaleIn = s.scaleIn := rfl
@[simp] theorem setWerr_patr (s : State) : (setWerr s).patr = s.patr := rfl
@[simp] theorem setWerr_pix (s : State) : (setWerr s).pix = s.pix := rfl
@[simp] theorem setWerr_history (s : State) : (setWerr s).history = s.history := rfl
@[simp] theorem setWerr_pastRuns (s : State) : (setWerr s).pastRuns = s.pastRuns := rfl
@[simp] theorem setWerr_portOut (s : State) : (setWerr s).portOut = s.portOut := rfl
@[simp] theorem setWerr_script (s : State) : (setWerr s).script = s.script := rfl

@[simp] theorem setCancelPend_cfg (s : State) : (setCancelPend s).cfg = s.cfg := rfl
@[simp] theorem setCancelPend_drv (s : State) : (setCancelPend s).drv = s.drv := rfl
@[simp] theorem setCancelPend_phase (s : State) : (setCancelPend s).phase = s.phase := rfl
@[simp] theorem setCancelPend_exit (s : State) : (setCancelPend s).exit = s.exit := rfl
@[simp] theorem setCancelPend_cause (s : State) : (setCancelPend s).cause = s.cause := rfl
@[simp] theorem setCancelPend_cancelPend (s : State) : (setCancelPend s).cancelPend = true := rfl
@[simp] theorem setCancelPend_werr (s : State) : (setCancelPend s).werr = s.werr := rfl
@[simp] theorem setCancelPend_convIn (s : State) : (setCancelPend s).convIn = s.convIn := rfl
@[simp] theorem setCancelPend_scaleIn (s : State) : (setCancelPend s).scaleIn = s.scaleIn := rfl
@[simp] theorem setCancelPend_patr (s : State) : (setCancelPend s).patr = s.patr := rfl
@[simp] theorem setCancelPend_pix (s : State) : (setCancelPend s).pix = s.pix := rfl
@[simp] theorem setCancelPend_history (s : State) : (setCancelPend s).history = s.history := rfl
@[simp] theorem setCancelPend_pastRuns (s : State) : (setCancelPend s).pastRuns = s.pastRuns := rfl
@[simp] theorem setCancelPend_portOut (s : State) : (setCancelPend s).portOut = s.portOut := rfl
@[simp] theorem setCancelPend_script (s : State) : (setCancelPend s).script = s.script := rfl

@[simp] theorem answerHost_cfg (v : Word) (s : State) : (answerHost v s).cfg = s.cfg := rfl
@[simp] theorem answerHost_drv (v : Word) (s : State) : (answerHost v s).drv = s.drv := rfl
@[simp] theorem answerHost_phase (v : Word) (s : State) : (answerHost v s).phase = s.phase := rfl
@[simp] theorem answerHost_exit (v : Word) (s : State) : (answerHost v s).exit = s.exit := rfl
@[simp] theorem answerHost_cause (v : Word) (s : State) : (answerHost v s).cause = s.cause := rfl
@[simp] theorem answerHost_cancelPend (v : Word) (s : State) : (answerHost v s).cancelPend = s.cancelPend := rfl
@[simp] theorem answerHost_werr (v : Word) (s : State) : (answerHost v s).werr = s.werr := rfl
@[simp] theorem answerHost_convIn (v : Word) (s : State) : (answerHost v s).convIn = s.convIn := rfl
@[simp] theorem answerHost_scaleIn (v : Word) (s : State) : (answerHost v s).scaleIn = s.scaleIn := rfl
@[simp] theorem answerHost_patr (v : Word) (s : State) : (answerHost v s).patr = s.patr := rfl
@[simp] theorem answerHost_pix (v : Word) (s : State) : (answerHost v s).pix = s.pix := rfl
@[simp] theorem answerHost_history (v : Word) (s : State) : (answerHost v s).history = s.history := rfl
@[simp] theorem answerHost_pastRuns (v : Word) (s : State) : (answerHost v s).pastRuns = s.pastRuns := rfl
@[simp] theorem answerHost_portOut (v : Word) (s : State) : (answerHost v s).portOut = some v := rfl
@[simp] theorem answerHost_script (v : Word) (s : State) : (answerHost v s).script = s.script := rfl

@[simp] theorem advance_cfg (s : State) : (advance s).cfg = s.cfg := rfl
@[simp] theorem advance_drv (s : State) : (advance s).drv = s.drv := rfl
@[simp] theorem advance_phase (s : State) : (advance s).phase = s.phase := rfl
@[simp] theorem advance_exit (s : State) : (advance s).exit = s.exit := rfl
@[simp] theorem advance_cause (s : State) : (advance s).cause = s.cause := rfl
@[simp] theorem advance_cancelPend (s : State) : (advance s).cancelPend = s.cancelPend := rfl
@[simp] theorem advance_werr (s : State) : (advance s).werr = s.werr := rfl
@[simp] theorem advance_convIn (s : State) : (advance s).convIn = s.convIn := rfl
@[simp] theorem advance_scaleIn (s : State) : (advance s).scaleIn = s.scaleIn := rfl
@[simp] theorem advance_patr (s : State) : (advance s).patr = s.patr := rfl
@[simp] theorem advance_pix (s : State) : (advance s).pix = s.pix := rfl
@[simp] theorem advance_history (s : State) : (advance s).history = s.history := rfl
@[simp] theorem advance_pastRuns (s : State) : (advance s).pastRuns = s.pastRuns := rfl
@[simp] theorem advance_portOut (s : State) : (advance s).portOut = s.portOut := rfl
@[simp] theorem advance_script (s : State) : (advance s).script = s.script.tail := rfl

@[simp] theorem resetPin_cfg (s : State) : (resetPin s).cfg = State.reset.cfg := rfl
@[simp] theorem resetPin_drv (s : State) : (resetPin s).drv = State.reset.drv := rfl
@[simp] theorem resetPin_phase (s : State) : (resetPin s).phase = State.reset.phase := rfl
@[simp] theorem resetPin_exit (s : State) : (resetPin s).exit = State.reset.exit := rfl
@[simp] theorem resetPin_cause (s : State) : (resetPin s).cause = State.reset.cause := rfl
@[simp] theorem resetPin_cancelPend (s : State) : (resetPin s).cancelPend = State.reset.cancelPend := rfl
@[simp] theorem resetPin_werr (s : State) : (resetPin s).werr = State.reset.werr := rfl
@[simp] theorem resetPin_convIn (s : State) : (resetPin s).convIn = State.reset.convIn := rfl
@[simp] theorem resetPin_scaleIn (s : State) : (resetPin s).scaleIn = State.reset.scaleIn := rfl
@[simp] theorem resetPin_patr (s : State) : (resetPin s).patr = State.reset.patr := rfl
@[simp] theorem resetPin_pix (s : State) : (resetPin s).pix = State.reset.pix := rfl
@[simp] theorem resetPin_history (s : State) : (resetPin s).history = State.reset.history := rfl
@[simp] theorem resetPin_pastRuns (s : State) : (resetPin s).pastRuns = s.pastRuns ++ [s.history] := rfl
@[simp] theorem resetPin_portOut (s : State) : (resetPin s).portOut = s.portOut := rfl
@[simp] theorem resetPin_script (s : State) : (resetPin s).script = s.script := rfl

@[simp] theorem reset_cfg : State.reset.cfg = Cfg.reset := rfl
@[simp] theorem reset_drv : State.reset.drv = .config := rfl
@[simp] theorem reset_phase : State.reset.phase = 0 := rfl
@[simp] theorem reset_exit : State.reset.exit = .success := rfl
@[simp] theorem reset_cause : State.reset.cause = .noCause := rfl
@[simp] theorem reset_cancelPend : State.reset.cancelPend = false := rfl
@[simp] theorem reset_werr : State.reset.werr = false := rfl
@[simp] theorem reset_convIn : State.reset.convIn = 0 := rfl
@[simp] theorem reset_scaleIn : State.reset.scaleIn = 0 := rfl
@[simp] theorem reset_patr : State.reset.patr = Patr.reset := rfl
@[simp] theorem reset_pix : State.reset.pix = 0 := rfl
@[simp] theorem reset_history : State.reset.history = [] := rfl
@[simp] theorem reset_pastRuns : State.reset.pastRuns = [] := rfl
@[simp] theorem reset_portOut : State.reset.portOut = none := rfl
@[simp] theorem reset_script : State.reset.script = [] := rfl

@[simp] theorem latchPatr_aPat (c : Cfg) : (latchPatr c).aPat = c.pat := rfl
@[simp] theorem latchPatr_aNled (c : Cfg) : (latchPatr c).aNled = c.ledCount := rfl
@[simp] theorem latchPatr_aInterval (c : Cfg) : (latchPatr c).aInterval = c.interval := rfl
@[simp] theorem latchPatr_aBright (c : Cfg) : (latchPatr c).aBright = clampPct c.bright := rfl
@[simp] theorem latchPatr_aNcol (c : Cfg) : (latchPatr c).aNcol = c.ncol := rfl
@[simp] theorem latchPatr_aOn (c : Cfg) : (latchPatr c).aOn = c.onTicks := rfl
@[simp] theorem latchPatr_aOff (c : Cfg) : (latchPatr c).aOff = c.offTicks := rfl
@[simp] theorem latchPatr_aStep (c : Cfg) : (latchPatr c).aStep = stepOf c := rfl
@[simp] theorem latchPatr_aPeriod (c : Cfg) : (latchPatr c).aPeriod = periodOf c := rfl
@[simp] theorem latchPatr_aColor (c : Cfg) : (latchPatr c).aColor = c.color.map (fun p => scale p (clampPct c.bright)) := rfl

theorem ColorTable.get_set_same (t : ColorTable) (k : Fin 16) (p : Pixel) : (t.set k p).get k = p := by
  simp [ColorTable.get, ColorTable.set]

theorem ColorTable.get_set_other (t : ColorTable) (k j : Fin 16) (p : Pixel) (h : j ≠ k) :
    (t.set k p).get j = t.get j := by
  have : k.val ≠ j.val := fun e => h (Fin.ext e.symm)
  simp [ColorTable.get, ColorTable.set, this]

theorem ColorTable.get_map (t : ColorTable) (f : Pixel → Pixel) (k : Fin 16) : (t.map f).get k = f (t.get k) := by
  simp [ColorTable.get, ColorTable.map]

theorem ColorTable.getElem?_entries (t : ColorTable) (j : Nat) (h : j < 16) :
    t.entries[j]? = some (t.get ⟨j, h⟩) := by
  have := t.full
  simp [ColorTable.get]

end Sys2Proof.Machine
end

