-- ==== Sys2Proof/Laws/Color.lean ====
section
/-! SUPPORT. The channels of a pixel word, the sectors of the hue circle, and the phase advance. -/

namespace Sys2Proof.Machine

@[simp] theorem red_rgb (r g b : Byte) : red (rgb r g b) = r := by
  apply BitVec.eq_of_getLsbD_eq
  intro i hi
  simp only [red, rgb, BitVec.getLsbD_append, BitVec.getLsbD_extractLsb']
  grind

@[simp] theorem green_rgb (r g b : Byte) : green (rgb r g b) = g := by
  apply BitVec.eq_of_getLsbD_eq
  intro i hi
  simp only [green, rgb, BitVec.getLsbD_append, BitVec.getLsbD_extractLsb']
  grind

@[simp] theorem blue_rgb (r g b : Byte) : blue (rgb r g b) = b := by
  apply BitVec.eq_of_getLsbD_eq
  intro i hi
  simp only [blue, rgb, BitVec.getLsbD_append, BitVec.getLsbD_extractLsb']
  grind

/-- A pixel word is its three channels (rule R42). -/
theorem rgb_channels (p : Pixel) : rgb (red p) (green p) (blue p) = p := by
  apply BitVec.eq_of_getLsbD_eq
  intro i hi
  simp only [red, green, blue, rgb, BitVec.getLsbD_append, BitVec.getLsbD_extractLsb']
  grind

@[simp] theorem low8_toNat (v : Nat) : (low8 v).toNat = v % 256 := by simp [low8]

@[simp] theorem scaleChannel_toNat (c pct : Byte) :
    (scaleChannel c pct).toNat = c.toNat * pct.toNat / 100 % 256 := by simp [scaleChannel]

@[simp] theorem red_scale (p : Pixel) (pct : Byte) : red (scale p pct) = scaleChannel (red p) pct := by simp [scale]

@[simp] theorem green_scale (p : Pixel) (pct : Byte) : green (scale p pct) = scaleChannel (green p) pct := by simp [scale]

@[simp] theorem blue_scale (p : Pixel) (pct : Byte) : blue (scale p pct) = scaleChannel (blue p) pct := by simp [scale]

/-- The comparisons of rule R82 find the sector a hue is in. -/
theorem sectorOf_eq {k f : Nat} (hk : k < 6) (hf : f < 7680) : sectorOf (7680 * k + f) = k := by
  unfold sectorOf
  repeat' split
  all_goals omega

theorem sectorOffset_eq {k f : Nat} (hk : k < 6) (hf : f < 7680) : sectorOffset (7680 * k + f) = f := by
  simp [sectorOffset, sectorOf_eq hk hf, Config.sector]

/-- Every legal hue is a sector and an offset. -/
theorem hue_sector {h : Nat} (hh : h < 46080) : ∃ k f, k < 6 ∧ f < 7680 ∧ h = 7680 * k + f :=
  ⟨h / 7680, h % 7680, by omega, by omega, by omega⟩

theorem ramp_le {h : Nat} (hh : h < 46080) : ramp h ≤ 7680 := by
  obtain ⟨k, f, hk, hf, rfl⟩ := hue_sector hh
  simp only [ramp, sectorOf_eq hk hf, sectorOffset_eq hk hf, Config.sector]
  split <;> omega

/-- The smallest channel is within the largest (rule R83, corner cases). -/
theorem hsvLo_le {sat val : Nat} (hs : sat ≤ 255) : hsvLo sat val ≤ val := by
  unfold hsvLo
  apply Nat.div_le_of_le_mul
  calc val * (255 - sat) ≤ val * 255 := Nat.mul_le_mul_left _ (by omega)
    _ = 255 * val := Nat.mul_comm _ _

theorem hsvMid_le {u sat val : Nat} (hs : sat ≤ 255) (hu : u ≤ 7680) : hsvMid u sat val ≤ val := by
  unfold hsvMid
  apply Nat.div_le_of_le_mul
  have h1 : sat * u ≤ sat * 7680 := Nat.mul_le_mul_left _ hu
  calc val * ((255 - sat) * 7680 + sat * u) ≤ val * 1958400 := Nat.mul_le_mul_left _ (by omega)
    _ = 1958400 * val := Nat.mul_comm _ _

/-- The phase advance is the mathematical remainder (rule R127). -/
theorem nextPhase_toNat {p : Patr} (h : 1 ≤ p.aPeriod.toNat) (phase : BitVec 18) :
    (nextPhase p phase).toNat = (phase.toNat + p.aStep.toNat) % p.aPeriod.toNat := by
  have h1 := Nat.mod_lt (phase.toNat + p.aStep.toNat) (show 0 < p.aPeriod.toNat by omega)
  have h2 := p.aPeriod.isLt
  simp only [nextPhase, BitVec.toNat_ofNat]
  exact Nat.mod_eq_of_lt (by omega)

theorem nextPhase_lt {p : Patr} (h : 1 ≤ p.aPeriod.toNat) (phase : BitVec 18) :
    (nextPhase p phase).toNat < p.aPeriod.toNat := by
  rw [nextPhase_toNat h]
  exact Nat.mod_lt _ (by omega)

theorem phaseAt_toNat {p : Patr} (h : 1 ≤ p.aPeriod.toNat) (k : Nat) :
    (phaseAt p k).toNat = k * p.aStep.toNat % p.aPeriod.toNat := by
  have h1 := Nat.mod_lt (k * p.aStep.toNat) (show 0 < p.aPeriod.toNat by omega)
  have h2 := p.aPeriod.isLt
  simp only [phaseAt, BitVec.toNat_ofNat]
  exact Nat.mod_eq_of_lt (by omega)

end Sys2Proof.Machine
end

