-- ==== Sys2Proof/Laws/Decode.lean ====
section
/-! SUPPORT. The fields of a word that was put together from them, and a word put together from its fields. -/

namespace Sys2Proof

@[simp] theorem patternCode_setWidth (x : BitVec 3) : patternCode (x.setWidth 32) = x := by
  revert x; decide

theorem bitVec3_cases (x : BitVec 3) : x = 0 ∨ x = 1 ∨ x = 2 ∨ x = 3 ∨ x = 4 ∨ x = 5 ∨ x = 6 ∨ x = 7 := by
  revert x; decide

theorem hsvWord_fields (w : Word) : hsvWord (hueField w) (satField w) (valField w) = w := by
  apply BitVec.eq_of_getLsbD_eq
  intro i hi
  simp only [hsvWord, hueField, satField, valField, BitVec.getLsbD_append, BitVec.getLsbD_extractLsb']
  split
  · simp_all
  · split
    · simp_all
    · simp_all; grind

theorem scaleWord_fields (w : Word) : scaleWord (pixField w) (pctField w) = w := by
  apply BitVec.eq_of_getLsbD_eq
  intro i hi
  simp only [scaleWord, pixField, pctField, BitVec.getLsbD_append, BitVec.getLsbD_extractLsb']
  split
  · simp_all
  · simp_all; grind

theorem unpack_pack (a : Access) : unpackAccess a.pack = a := by
  obtain ⟨kind, n, v⟩ := a
  have hk : (Access.pack ⟨kind, n, v⟩).extractLsb' 0 1 = kind.bit := by
    apply BitVec.eq_of_getLsbD_eq
    intro i hi
    simp only [Access.pack, BitVec.getLsbD_append, BitVec.getLsbD_extractLsb']
    simp_all
  have hn : (Access.pack ⟨kind, n, v⟩).extractLsb' 1 6 = n := by
    apply BitVec.eq_of_getLsbD_eq
    intro i hi
    simp only [Access.pack, BitVec.getLsbD_append, BitVec.getLsbD_extractLsb']
    grind
  have hv : (Access.pack ⟨kind, n, v⟩).extractLsb' 7 32 = v := by
    apply BitVec.eq_of_getLsbD_eq
    intro i hi
    simp only [Access.pack, BitVec.getLsbD_append, BitVec.getLsbD_extractLsb']
    grind
  simp only [unpackAccess, hk, hn, hv]
  cases kind <;> rfl

theorem decode_pack (a : Access) :
    decode (.a a.pack) = .ok (match a.kind with | .rd => .rd a.n | .wr => .wr a.n a.v) := by
  obtain ⟨kind, n, v⟩ := a
  cases kind <;> simp only [decode, decodeAccess, unpack_pack]

/-- Exactly the pairs of rule R43 spell an access. -/
theorem spellAccess_eq_ok {kind : Kind} {n v : Nat} {a : Access} :
    spellAccess kind n v = .ok a ↔ n < 64 ∧ v < 2 ^ 32 ∧ a = ⟨kind, BitVec.ofNat 6 n, BitVec.ofNat 32 v⟩ := by
  unfold spellAccess
  split
  · simp; omega
  · split
    · simp; omega
    · simp only [Except.ok.injEq]
      constructor
      · rintro rfl
        exact ⟨by omega, by omega, rfl⟩
      · rintro ⟨_, _, rfl⟩
        rfl

/-- Every access is spelled by its own numbers. -/
theorem spellAccess_toNat (a : Access) : spellAccess a.kind a.n.toNat a.v.toNat = .ok a :=
  spellAccess_eq_ok.mpr ⟨a.n.isLt, a.v.isLt, by simp⟩

/-- A number above the 39 bits of an access has a data word of 2^32 or more and spells no access. -/
theorem spellPacked_refuses {w : Nat} (h : 2 ^ 39 ≤ w) : spellPacked w = .error (.dataWord (w / 128)) := by
  have hn : ¬ 64 ≤ w / 2 % 64 := by omega
  have hv : 2 ^ 32 ≤ w / 128 := by omega
  simp only [spellPacked, spellAccess, if_neg hn, if_pos hv]

/-- So no such number is read as an instruction, whatever its length. -/
theorem decodeTableWord_refuses {w : Nat} (h : 2 ^ 39 ≤ w) (nbits : Nat) : decodeTableWord nbits w = none := by
  by_cases hb : nbits ≤ 32
  · have hw : nbits ≤ 32 ∧ 2 ^ 32 ≤ w := ⟨hb, by omega⟩
    simp only [decodeTableWord, tableCoded, if_pos hw]
  · have hw : ¬ (nbits ≤ 32 ∧ 2 ^ 32 ≤ w) := fun hc => hb hc.1
    have hl : 32 < nbits ∨ (nbits ≤ 8 ∧ w < 2) := .inl (by omega)
    simp only [decodeTableWord, tableCoded, if_neg hw, if_pos hl, spellPacked_refuses h]

end Sys2Proof
end

