-- ==== Sys2Proof/Laws/Frame.lean ====
section
/-! SUPPORT. What the frame generator answers: the length and the pixels of a frame, when each pixel function has a pixel, and
that a constructed PATR with a phase in its period always has a frame. -/

namespace Sys2Proof.Machine

/-- If every pixel asked for exists, the pixels come in index order (rule R100). -/
theorem genPixels_ok {px : Nat → Except Fault Pixel} {g : Nat → Pixel} :
    ∀ (count i : Nat), (∀ j, i ≤ j → j < i + count → px j = .ok (g j)) →
      genPixels px count i = .ok ((List.range' i count).map g)
  | 0, _, _ => rfl
  | count + 1, i, h => by
    have hi : px i = .ok (g i) := h i (Nat.le_refl i) (by omega)
    have hrest := genPixels_ok count (i + 1) (fun j hj hlt => h j (by omega) (by omega))
    simp [genPixels, hi, hrest, List.range'_succ]

theorem frameBy_ok {px : Patr → BitVec 18 → Nat → Nat → Except Fault Pixel} {p : Patr} {phase : BitVec 18} {n : Nat}
    {g : Nat → Pixel} (h : ∀ j, j < n → px p phase n j = .ok (g j)) :
    frameBy px p phase n = .ok ((List.range n).map g) := by
  rw [frameBy, genPixels_ok n 0 (fun j _ hj => h j (by omega)), List.range_eq_range']

/-- A frame is as long as asked for (rule R48). -/
theorem genPixels_length {px : Nat → Except Fault Pixel} :
    ∀ {count i : Nat} {f : List Pixel}, genPixels px count i = .ok f → f.length = count
  | 0, _, _, h => by simp [genPixels] at h; simp [← h]
  | count + 1, i, f, h => by
    rw [genPixels] at h
    split at h
    · cases h
    · split at h
      · cases h
      · next hrest => cases h; simp [genPixels_length hrest]

theorem frameBy_length {px : Patr → BitVec 18 → Nat → Nat → Except Fault Pixel} {p : Patr} {phase : BitVec 18} {n : Nat}
    {f : List Pixel} (h : frameBy px p phase n = .ok f) : f.length = n := genPixels_length h

theorem frameBy_uniform {px : Patr → BitVec 18 → Nat → Nat → Except Fault Pixel} {p : Patr} {phase : BitVec 18} {n : Nat}
    {c : Pixel} (h : ∀ j, j < n → px p phase n j = .ok c) : frameBy px p phase n = .ok (List.replicate n c) := by
  rw [frameBy_ok (g := fun _ => c) h]
  simp

/-- The empty frame evaluates no pixel (rule R100). -/
@[simp] theorem frameBy_zero (px : Patr → BitVec 18 → Nat → Nat → Except Fault Pixel) (p : Patr) (phase : BitVec 18) :
    frameBy px p phase 0 = .ok [] := rfl

theorem pxWipe_ok {p : Patr} {phase : BitVec 18} {n i : Nat} (h0 : 1 ≤ p.aNcol.toNat)
    (h : (i + phase.toNat) % p.aNcol.toNat < 16) :
    pxWipe p phase n i = .ok (p.aColor.get ⟨(i + phase.toNat) % p.aNcol.toNat, h⟩) := by
  have hne : p.aNcol.toNat ≠ 0 := by omega
  unfold pxWipe
  rw [if_neg hne, ColorTable.getElem?_entries _ _ h]

theorem pxBrsync_ok {p : Patr} {phase : BitVec 18} {n i : Nat} (h : phase.toNat < 46080) :
    pxBrsync p phase n i = .ok (huePx p phase.toNat) := by
  simp [pxBrsync, Config.turn, h]

theorem pxBroff_ok {p : Patr} {phase : BitVec 18} {n i : Nat} (h : phase.toNat < 46080) :
    pxBroff p phase n i = .ok (huePx p (wrapHue (phase.toNat + hueOffset n i))) := by
  simp [pxBroff, Config.turn, h]

theorem pxFlash_ok {p : Patr} {phase : BitVec 18} {n i : Nat} (h : 1 ≤ p.aOn.toNat + p.aOff.toNat) :
    pxFlash p phase n i =
      .ok (if phase.toNat % (p.aOn.toNat + p.aOff.toNat) < p.aOn.toNat then p.aColor.get 0 else 0) := by
  have hne : ¬ (p.aOn.toNat + p.aOff.toNat = 0) := by omega
  simp only [pxFlash, if_neg hne]
  split <;> rfl

/-- The multiplexer, one equation per code (rule R100). -/
theorem genFrame_off {p : Patr} (h : p.aPat = 0) : genFrame p = frameBy pxOff p := by
  funext phase n; simp [genFrame, h]

theorem genFrame_static {p : Patr} (h : p.aPat = 1) : genFrame p = frameBy pxStatic p := by
  funext phase n; simp [genFrame, h]

theorem genFrame_wipe {p : Patr} (h : p.aPat = 2) : genFrame p = frameBy pxWipe p := by
  funext phase n; simp [genFrame, h]

theorem genFrame_brsync {p : Patr} (h : p.aPat = 3) : genFrame p = frameBy pxBrsync p := by
  funext phase n; simp [genFrame, h]

theorem genFrame_broff {p : Patr} (h : p.aPat = 4) : genFrame p = frameBy pxBroff p := by
  funext phase n; simp [genFrame, h]

theorem genFrame_flash {p : Patr} (h : p.aPat = 5) : genFrame p = frameBy pxFlash p := by
  funext phase n; simp [genFrame, h]

/-- The six codes, as cases. -/
theorem pattern_cases {x : BitVec 3} (h : x.toNat ≤ 5) : x = 0 ∨ x = 1 ∨ x = 2 ∨ x = 3 ∨ x = 4 ∨ x = 5 := by
  revert h; revert x; decide

theorem genFrame_length {p : Patr} {phase : BitVec 18} {n : Nat} {f : List Pixel} (h : genFrame p phase n = .ok f) :
    f.length = n := by
  unfold genFrame at h
  repeat' split at h
  all_goals first
    | exact frameBy_length h
    | cases h

/-- A constructed PATR and a phase in its period always give a frame: no fault of the frame generator is reached (rules R28,
R47, R109, R110). -/
theorem Patr.Constructed.genFrame_ok {p : Patr} (hp : p.Constructed) {phase : BitVec 18}
    (hphase : phase.toNat < p.aPeriod.toNat) (n : Nat) : ∃ f, genFrame p phase n = .ok f := by
  obtain h | h | h | h | h | h := pattern_cases hp.patternLegal
  · exact ⟨_, by rw [genFrame_off h]; exact frameBy_uniform (fun _ _ => rfl)⟩
  · exact ⟨_, by rw [genFrame_static h]; exact frameBy_uniform (fun _ _ => rfl)⟩
  · obtain ⟨h1, h16⟩ := hp.wipeColours h
    have hlt : ∀ j, (j + phase.toNat) % p.aNcol.toNat < 16 := fun j =>
      Nat.lt_of_lt_of_le (Nat.mod_lt _ (by omega)) h16
    exact ⟨_, by rw [genFrame_wipe h]; exact frameBy_ok (fun j _ => pxWipe_ok h1 (hlt j))⟩
  · have := hp.huePeriod (.inl h)
    exact ⟨_, by rw [genFrame_brsync h]; exact frameBy_uniform (fun _ _ => pxBrsync_ok (by omega))⟩
  · have := hp.huePeriod (.inr h)
    exact ⟨_, by rw [genFrame_broff h]; exact frameBy_ok (fun _ _ => pxBroff_ok (by omega))⟩
  · exact ⟨_, by rw [genFrame_flash h]; exact frameBy_uniform (fun _ _ => pxFlash_ok (hp.flashPeriod h).1)⟩

end Sys2Proof.Machine
end

