-- ==== Sys2Proof/Laws/Ops.lean ====
section
/-! SUPPORT. What each shared operation, each meaning and the step can do, said once: `Move` lists every way a step that is no
RESET changes the state, and `step_move` says there is no other.  Invariants follow by cases on `Move`. -/

namespace Sys2Proof.Machine

/-- S_TICK in full (rule R125). -/
theorem sTick_next {gen : Patr → BitVec 18 → Nat → Except Fault (List Pixel)} {s t : State} (h : sTick gen s = .next t) :
    (s.drv ≠ .tick ∧ t = s) ∨
    (s.drv = .tick ∧ s.cancelPend = true ∧ t = raiseFatal .cancelled .noCause s) ∨
    (s.drv = .tick ∧ s.cancelPend = false ∧ ∃ f, gen s.patr s.phase s.patr.aNled.toNat = .ok f ∧
      t = { emit (.frameOut f) s with drv := .emit, pix := 0 }) := by
  unfold sTick at h
  split at h
  · next hd =>
    split at h
    · next hc => cases h; exact .inr (.inl ⟨hd, hc, rfl⟩)
    · next hc =>
      split at h
      · next f hf => cases h; exact .inr (.inr ⟨hd, by simpa using hc, f, hf, rfl⟩)
      · cases h
  · next hd => cases h; exact .inl ⟨hd, rfl⟩

/-- The frame is emitted when the sequencer is at a tick boundary, nothing is pending and the frame exists. -/
theorem sTick_emits {gen : Patr → BitVec 18 → Nat → Except Fault (List Pixel)} {s : State} {f : List Pixel}
    (hd : s.drv = .tick) (hc : s.cancelPend = false) (hf : gen s.patr s.phase s.patr.aNled.toNat = .ok f) :
    sTick gen s = .next { emit (.frameOut f) s with drv := .emit, pix := 0 } := by
  simp [sTick, hd, hc, hf]

theorem sTick_cancelled {gen : Patr → BitVec 18 → Nat → Except Fault (List Pixel)} {s : State}
    (hd : s.drv = .tick) (hc : s.cancelPend = true) : sTick gen s = .next (raiseFatal .cancelled .noCause s) := by
  simp [sTick, hd, hc]

theorem sTick_passes {gen : Patr → BitVec 18 → Nat → Except Fault (List Pixel)} {s : State}
    (hd : s.drv ≠ .tick) : sTick gen s = .next s := by
  simp [sTick, hd]

/-- START in full (rule R122). -/
theorem startCmd_cases (s : State) :
    (s.drv ≠ .config ∧ startCmd s = setWerr s) ∨
    (s.drv = .config ∧ constructCheck s.cfg = .noCause ∧
      startCmd s = emit .openReq { s with patr := latchPatr s.cfg, phase := 0, drv := .opening }) ∨
    (s.drv = .config ∧ constructCheck s.cfg ≠ .noCause ∧
      startCmd s = raiseFatal .construct (constructCheck s.cfg) s) := by
  by_cases hd : s.drv = .config
  · cases hc : constructCheck s.cfg <;> simp [startCmd, hd, hc]
  · simp [startCmd, hd]

/-- The clamp of rule R15. -/
@[simp] theorem clampPct_toNat (pct : Byte) : (clampPct pct).toNat = min pct.toNat 100 := by
  unfold clampPct
  split
  · next h =>
    have : pct.toNat ≤ 100 := h
    omega
  · next h =>
    have : ¬ pct.toNat ≤ 100 := h
    show 100 = _
    omega

/-- When no construction check fails (rule R141). -/
theorem constructCheck_noCause {c : Cfg} (h : constructCheck c = .noCause) :
    c.pat.toNat ≤ 5 ∧ (c.pat = 2 → 1 ≤ c.ncol.toNat ∧ c.ncol.toNat ≤ 16) ∧
      (c.pat = 5 → 1 ≤ c.onTicks.toNat + c.offTicks.toNat) := by
  unfold constructCheck at h
  repeat' split at h
  all_goals cases h
  rename_i h1 h2 h3
  simp only [Config.ncolMax] at h2
  refine ⟨by omega, fun hp => ?_, fun hp => ?_⟩
  · have : ¬ (c.ncol.toNat = 0 ∨ 16 < c.ncol.toNat) := fun hc => h2 ⟨hp, hc⟩
    omega
  · have : ¬ (c.onTicks.toNat + c.offTicks.toNat = 0) := fun hc => h3 ⟨hp, hc⟩
    omega

/-- The period of rule R108 is 1 to 131070 and, for the hue and flash patterns, the one of the table. -/
theorem periodOf_toNat {c : Cfg} (h : c.pat.toNat ≤ 5) :
    (periodOf c).toNat =
      if c.pat = 2 then max c.ledCount.toNat 1
      else if c.pat = 3 ∨ c.pat = 4 then 46080
      else if c.pat = 5 then c.onTicks.toNat + c.offTicks.toNat
      else 1 := by
  have h1 := c.ledCount.isLt
  have h2 := c.onTicks.isLt
  have h3 := c.offTicks.isLt
  obtain hp | hp | hp | hp | hp | hp := pattern_cases h <;> simp [periodOf, hp] <;> omega

/-- What START loads after the checks have passed is a constructed record (rules R28, R122). -/
theorem latchPatr_constructed {c : Cfg} (h : constructCheck c = .noCause) : (latchPatr c).Constructed := by
  obtain ⟨h5, hw, hf⟩ := constructCheck_noCause h
  have hper := periodOf_toNat h5
  have b1 := c.ledCount.isLt
  have b2 := c.onTicks.isLt
  have b3 := c.offTicks.isLt
  constructor
  · exact h5
  · show (clampPct c.bright).toNat ≤ 100
    simp
  · show 1 ≤ (periodOf c).toNat
    obtain hp | hp | hp | hp | hp | hp := pattern_cases h5 <;> simp [hp] at hper hf <;> omega
  · show (periodOf c).toNat ≤ 131070
    obtain hp | hp | hp | hp | hp | hp := pattern_cases h5 <;> simp [hp] at hper <;> omega
  · exact hw
  · intro (hp : c.pat = 5)
    refine ⟨hf hp, ?_⟩
    show (periodOf c).toNat = _
    rw [hper, hp]
    rfl
  · intro (hp : c.pat = 3 ∨ c.pat = 4)
    show (periodOf c).toNat = _
    obtain hp | hp := hp <;> rw [hper, hp] <;> rfl

/-- CANCEL in full (rule R123). -/
theorem cancelCmd_cases (s : State) :
    (s.drv.active = true ∧ cancelCmd s = setCancelPend s) ∨ (s.drv.active = false ∧ cancelCmd s = setWerr s) := by
  cases hd : s.drv <;> simp [cancelCmd, hd, Drv.active]

/-- What a step that is no RESET can make of the state, with the move `e` that makes it (none when nothing is listed), in the
state after the move has been taken off the script. -/
inductive Move (e : Option Event) (s : State) : State → Prop where
  | pass : Move e s s
  | answered (v : Word) : Move e s (answerHost v s)
  | convWritten (w : Word) : Move e s { s with convIn := w }
  | scaleWritten (w : Word) : Move e s { s with scaleIn := w }
  | configured (c : Cfg) (hd : s.drv = .config) : Move e s { s with cfg := c }
  | refused : Move e s (setWerr s)
  | cancelLatched (he : e = some (.host ⟨.wr, 0, 2⟩)) (hd : s.drv.active = true) : Move e s (setCancelPend s)
  | started (he : e = some (.host ⟨.wr, 0, 1⟩)) (hd : s.drv = .config) (hc : constructCheck s.cfg = .noCause) :
      Move e s (emit .openReq { s with patr := latchPatr s.cfg, phase := 0, drv := .opening })
  | constructFailed (he : e = some (.host ⟨.wr, 0, 1⟩)) (hd : s.drv = .config)
      (hc : constructCheck s.cfg ≠ .noCause) : Move e s (raiseFatal .construct (constructCheck s.cfg) s)
  | tickCancelled (he : e = none ∨ e = some .tick) (hd : s.drv = .tick) (hc : s.cancelPend = true) :
      Move e s (raiseFatal .cancelled .noCause s)
  | framed (f : List Pixel) (he : e = none ∨ e = some .tick) (hd : s.drv = .tick) (hc : s.cancelPend = false)
      (hf : genFrame s.patr s.phase s.patr.aNled.toNat = .ok f) :
      Move e s { emit (.frameOut f) s with drv := .emit, pix := 0 }
  | opened (he : e = some (.tOpen .ok)) (hd : s.drv = .opening) : Move e s { emit (.openAns .ok) s with drv := .tick }
  | openFailed (he : e = some (.tOpen .err)) (hd : s.drv = .opening) :
      Move e s (raiseFatal .openFailed .noCause (emit (.openAns .err) s))
  | transFailed (he : e = some (.tAns .err)) (hd : s.drv = .emit) :
      Move e s (raiseFatal .transport .noCause (emit (.transAns .err) s))
  | offDone (he : e = some (.tAns .ok)) (hd : s.drv = .emit) (hp : s.patr.aPat = 0) :
      Move e s (raiseFatal .success .noCause (emit (.transAns .ok) s))
  | waited (he : e = some (.tAns .ok)) (hd : s.drv = .emit) (hp : s.patr.aPat ≠ 0) (h0 : s.patr.aPeriod ≠ 0) :
      Move e s { emit (.transAns .ok) s with phase := nextPhase s.patr s.phase, drv := .wait }
  | fired (he : e = some .tmr) (hd : s.drv = .wait) : Move e s { s with drv := .tick }

theorem startCmd_move (s : State) : Move (some (.host ⟨.wr, 0, 1⟩)) s (startCmd s) := by
  obtain ⟨_, h⟩ | ⟨hd, hc, h⟩ | ⟨hd, hc, h⟩ := startCmd_cases s <;> rw [h]
  · exact .refused
  · exact .started rfl hd hc
  · exact .constructFailed rfl hd hc

theorem cancelCmd_move (s : State) : Move (some (.host ⟨.wr, 0, 2⟩)) s (cancelCmd s) := by
  obtain ⟨hd, h⟩ | ⟨_, h⟩ := cancelCmd_cases s <;> rw [h]
  · exact .cancelLatched rfl hd
  · exact .refused

theorem writeCfg_move (e : Option Event) (r : Reg) (v : Word) (s : State) : Move e s (writeCfg r v s) := by
  unfold writeCfg
  split
  · next hd => exact .configured _ hd
  · exact .refused

theorem writeCmd_move (v : Word) (s : State) : Move (some (.host ⟨.wr, 0, v⟩)) s (writeCmd v s) := by
  unfold writeCmd
  split
  · next h => subst h; exact startCmd_move s
  · split
    · next h => subst h; exact cancelCmd_move s
    · exact .refused

/-- CMD is register 0 and no other (rule R41). -/
theorem regOf_cmd : ∀ {n : RegNum}, regOf n = .cmd → n = 0 := by decide

/-- No two numbers name the same mapped register (rule R41). -/
theorem regOf_injective : ∀ {m n : RegNum}, regOf m = regOf n → regOf n ≠ .unmapped → m = n := by decide

/-- The numbers of the colour table (rule R41). -/
theorem regOf_color : ∀ k : Fin 16, regOf (BitVec.ofNat 6 (16 + k.val)) = .color k := by decide

/-- A write to a configuration register, by number (rules R41, R45). -/
theorem hostWrite_cfg {n : RegNum} (h : (2 ≤ n.toNat ∧ n.toNat ≤ 9) ∨ (16 ≤ n.toNat ∧ n.toNat ≤ 31)) (v : Word)
    (s : State) : hostWrite n v s = writeCfg (regOf n) v s := by
  have key : ∀ n : RegNum, ((2 ≤ n.toNat ∧ n.toNat ≤ 9) ∨ (16 ≤ n.toNat ∧ n.toNat ≤ 31)) →
      regOf n ∈ [Reg.pattern, .ledCount, .interval, .bright, .hueRate, .onTicks, .offTicks, .ncol] ∨
        ∃ k, regOf n = .color k := by decide
  unfold hostWrite
  obtain hr | ⟨k, hr⟩ := key n h
  · simp only [List.mem_cons, List.not_mem_nil, or_false] at hr
    obtain hr | hr | hr | hr | hr | hr | hr | hr := hr <;> simp only [hr]
  · simp only [hr]

theorem hostWrite_move (n : RegNum) (v : Word) (s : State) : Move (some (.host ⟨.wr, n, v⟩)) s (hostWrite n v s) := by
  unfold hostWrite
  split
  case h_1 h => rw [regOf_cmd h]; exact writeCmd_move v s
  case h_7 => exact .convWritten v
  case h_8 => exact .scaleWritten v
  all_goals first
    | exact .refused
    | exact writeCfg_move _ _ v s

/-- S_TICK with the frame of GenFrame. -/
theorem sTick_move {e : Option Event} (he : e = none ∨ e = some .tick) {s t : State} (h : sTick genFrame s = .next t) :
    Move e s t := by
  obtain ⟨_, rfl⟩ | ⟨hd, hc, rfl⟩ | ⟨hd, hc, f, hf, rfl⟩ := sTick_next h
  · exact .pass
  · exact .tickCancelled he hd hc
  · exact .framed f he hd hc hf

theorem sTick_congr {gen gen' : Patr → BitVec 18 → Nat → Except Fault (List Pixel)} {s : State}
    (h : gen s.patr = gen' s.patr) : sTick gen s = sTick gen' s := by
  simp only [sTick, h]

theorem runWord_ok {c : Coded} {i : Instr} {s : State} (h : decode c = .ok i) : runWord c s = exec i s := by
  simp [runWord, h]

theorem runWord_error {c : Coded} {e : DecodeError} {s : State} (h : decode c = .error e) :
    runWord c s = runRejected e s := by
  simp [runWord, h]

/-- The turn of the sequencer runs the pattern that A_PAT selects, and that is S_TICK with GenFrame (rules R100, R125). -/
theorem runPattern_eq (s : State) : runWord (.p (zext32 s.patr.aPat)) s = sTick genFrame s := by
  have hc : patternCode (zext32 s.patr.aPat) = s.patr.aPat := patternCode_setWidth _
  obtain h | h | h | h | h | h | h | h := bitVec3_cases s.patr.aPat
  · rw [runWord_ok (i := .off) (by simp only [decode, decodePattern, hc]; rw [h]; rfl)]
    exact sTick_congr (genFrame_off h).symm
  · rw [runWord_ok (i := .static) (by simp only [decode, decodePattern, hc]; rw [h]; rfl)]
    exact sTick_congr (genFrame_static h).symm
  · rw [runWord_ok (i := .wipe) (by simp only [decode, decodePattern, hc]; rw [h]; rfl)]
    exact sTick_congr (genFrame_wipe h).symm
  · rw [runWord_ok (i := .brsync) (by simp only [decode, decodePattern, hc]; rw [h]; rfl)]
    exact sTick_congr (genFrame_brsync h).symm
  · rw [runWord_ok (i := .broff) (by simp only [decode, decodePattern, hc]; rw [h]; rfl)]
    exact sTick_congr (genFrame_broff h).symm
  · rw [runWord_ok (i := .flash) (by simp only [decode, decodePattern, hc]; rw [h]; rfl)]
    exact sTick_congr (genFrame_flash h).symm
  · rw [runWord_error (e := .reservedPattern 6) (by simp only [decode, decodePattern, hc]; rw [h]; rfl)]
    exact sTick_congr (gen := fun _ _ _ => .error (.reservedPattern 6))
      (by funext phase n; unfold genFrame; rw [h]; rfl)
  · rw [runWord_error (e := .reservedPattern 7) (by simp only [decode, decodePattern, hc]; rw [h]; rfl)]
    exact sTick_congr (gen := fun _ _ _ => .error (.reservedPattern 7))
      (by funext phase n; unfold genFrame; rw [h]; rfl)

/-- A host access, whatever word it makes the block decode, has the effect of its RD or WR (rules R44, R45, R60, R70). -/
theorem runAccess_eq (a : Access) (s : State) :
    runWord (accessCoded s.convIn s.scaleIn a) s =
      match a.kind with
      | .rd => .next (answerHost (hostRead a.n s) s)
      | .wr => .next (hostWrite a.n a.v s) := by
  obtain ⟨kind, n, v⟩ := a
  cases kind with
  | rd =>
    by_cases h12 : n = 12
    · subst h12
      rw [runWord_ok (i := .hsv2rgb (hueField s.convIn) (satField s.convIn) (valField s.convIn)) (by simp [accessCoded, decode])]
      simp [exec, execHsv2rgb, hsvWord_fields, hostRead, regOf]
    · by_cases h14 : n = 14
      · subst h14
        rw [runWord_ok (i := .scale (pixField s.scaleIn) (pctField s.scaleIn)) (by simp [accessCoded, decode])]
        simp [exec, execScale, scaleWord_fields, hostRead, regOf]
      · rw [runWord_ok (i := .rd n) (by simp only [accessCoded, h12, h14, if_false, decode_pack])]
        rfl
  | wr =>
    by_cases hc : isCommandWrite n v
    · have hn : n = 0 ∧ (v = 1 ∨ v = 2) := by simpa [isCommandWrite] using hc
      obtain ⟨rfl, rfl | rfl⟩ := hn
      · rw [runWord_ok (i := .start) (by simp [accessCoded, isCommandWrite, decode, decodeCommand])]
        simp [exec, execStart, hostWrite, regOf, writeCmd]
      · rw [runWord_ok (i := .cancel) (by simp [accessCoded, isCommandWrite, decode, decodeCommand])]
        simp [exec, execCancel, hostWrite, regOf, writeCmd]
    · rw [runWord_ok (i := .wr n v) (by simp only [accessCoded, if_neg hc, decode_pack])]
      rfl

theorem step_host {s : State} {a : Access} {rest : List Event} (h : s.script = .host a :: rest) :
    step s = match a.kind with
      | .rd => .next (answerHost (hostRead a.n (advance s)) (advance s))
      | .wr => .next (hostWrite a.n a.v (advance s)) := by
  have hf : fetch s = some (accessCoded (advance s).convIn (advance s).scaleIn a) := by simp [fetch, h]
  simp only [step, hf, runAccess_eq]

/-- The sequencer's turn, listed or with nothing listed (rule R125; in another state the turn passes, log entry 2). -/
theorem step_tick {s : State} (h : s.script = [] ∨ ∃ rest, s.script = .tick :: rest) :
    step s = sTick genFrame (advance s) := by
  by_cases hd : s.drv = .tick
  · have hf : fetch s = some (.p (zext32 (advance s).patr.aPat)) := by
      obtain h | ⟨rest, h⟩ := h <;> simp [fetch, h, hd]
    simp only [step, hf, runPattern_eq]
  · have hf : fetch s = none := by obtain h | ⟨rest, h⟩ := h <;> simp [fetch, h, hd]
    rw [sTick_passes (by simpa using hd)]
    obtain h | ⟨rest, h⟩ := h <;> simp [step, hf, environment, h, advance]
    rw [← h]

/-- A move of the environment, which is no instruction. -/
theorem step_environment {s : State} {e : Event} {rest : List Event} (h : s.script = e :: rest)
    (he : e = .reset ∨ (∃ a, e = .tOpen a) ∨ (∃ a, e = .tAns a) ∨ e = .tmr) : step s = environment s := by
  have hf : fetch s = none := by
    obtain rfl | ⟨_, rfl⟩ | ⟨_, rfl⟩ | rfl := he <;> simp [fetch, h]
  simp only [step, hf]

theorem tOpen_move (a : Answer) (s : State) : Move (some (.tOpen a)) s (tOpen a s) := by
  unfold tOpen
  split
  · next hd => cases a <;> [exact .opened rfl hd; exact .openFailed rfl hd]
  · exact .pass

theorem tAns_move {a : Answer} {s t : State} (h : tAns a s = .next t) : Move (some (.tAns a)) s t := by
  unfold tAns at h
  split at h
  · next hd =>
    cases a with
    | err => cases h; exact .transFailed rfl hd
    | ok =>
      simp only at h
      split at h
      · next hp => cases h; exact .offDone rfl hd hp
      · next hp =>
        split at h
        · cases h
        · next h0 => cases h; exact .waited rfl hd hp h0
  · cases h; exact .pass

theorem tmr_move (s : State) : Move (some .tmr) s (tmr s) := by
  unfold tmr
  split
  · next hd => exact .fired rfl hd
  · exact .pass

/-- All that a step can do: RESET, or one `Move` made by the head of the script. -/
theorem step_move {s t : State} (h : step s = .next t) :
    (resetNext s = true ∧ t = resetPin (advance s)) ∨ (resetNext s = false ∧ Move s.script.head? (advance s) t) := by
  match hs : s.script with
  | [] =>
    rw [step_tick (.inl hs)] at h
    exact .inr ⟨by simp [resetNext, hs], sTick_move (.inl rfl) h⟩
  | .tick :: rest =>
    rw [step_tick (.inr ⟨rest, hs⟩)] at h
    exact .inr ⟨by simp [resetNext, hs], sTick_move (.inr rfl) h⟩
  | .host ⟨kind, n, v⟩ :: rest =>
    rw [step_host hs] at h
    refine .inr ⟨by simp [resetNext, hs], ?_⟩
    cases kind <;> simp only at h <;> cases h
    · exact .answered _
    · exact hostWrite_move _ _ _
  | .reset :: rest =>
    rw [step_environment hs (.inl rfl)] at h
    simp only [environment, hs] at h
    cases h
    exact .inl ⟨by simp [resetNext, hs], by simp [advance, hs]⟩
  | .tOpen a :: rest =>
    rw [step_environment hs (.inr (.inl ⟨a, rfl⟩))] at h
    simp only [environment, hs] at h
    cases h
    exact .inr ⟨by simp [resetNext, hs], by simpa [advance, hs] using tOpen_move a (advance s)⟩
  | .tAns a :: rest =>
    rw [step_environment hs (.inr (.inr (.inl ⟨a, rfl⟩)))] at h
    simp only [environment, hs] at h
    exact .inr ⟨by simp [resetNext, hs], by simpa [advance, hs] using tAns_move h⟩
  | .tmr :: rest =>
    rw [step_environment hs (.inr (.inr (.inr rfl)))] at h
    simp only [environment, hs] at h
    cases h
    exact .inr ⟨by simp [resetNext, hs], by simpa [advance, hs] using tmr_move (advance s)⟩

end Sys2Proof.Machine
end

