-- ==== Sys2Proof/Laws/PerInstr.lean ====
section
/-! SUPPORT. Statements made per instruction, one lemma per constructor.  The family TableRow: the word `encode` gives agrees
with the row of spec/opcode_table.json, its match under its mask. -/

namespace Sys2Proof.Laws.TableRow

/-- The word of a code, as a number, bit 0 the least significant. -/
def bits : Coded → Nat
  | .p w => w.toNat
  | .c w => w.toNat
  | .h w => w.toNat
  | .s w => w.toNat
  | .a t => t.toNat

/-- The letter of the format, as the table's column has it. -/
def letter : Coded → Char
  | .p _ => 'P'
  | .c _ => 'C'
  | .h _ => 'H'
  | .s _ => 'S'
  | .a _ => 'A'

/-- The row of spec/opcode_table.json: format, match, mask. -/
def row : Instr → Char × Nat × Nat
  | .off => ('P', 0x00000000, 0x00000007)
  | .static => ('P', 0x00000001, 0x00000007)
  | .wipe => ('P', 0x00000002, 0x00000007)
  | .brsync => ('P', 0x00000003, 0x00000007)
  | .broff => ('P', 0x00000004, 0x00000007)
  | .flash => ('P', 0x00000005, 0x00000007)
  | .start => ('C', 0x00000001, 0xFFFFFFFF)
  | .cancel => ('C', 0x00000002, 0xFFFFFFFF)
  | .hsv2rgb _ _ _ => ('H', 0x00000000, 0x00000000)
  | .scale _ _ => ('S', 0x00000000, 0x00000000)
  | .rd _ => ('A', 0x0, 0x1)
  | .wr _ _ => ('A', 0x1, 0x1)

/-- The encoding has the row's format and its match under its mask. -/
def Statement (i : Instr) : Prop :=
  letter (encode i) = (row i).1 ∧ bits (encode i) &&& (row i).2.2 = (row i).2.1

theorem off : Statement .off := ⟨rfl, rfl⟩

theorem static : Statement .static := ⟨rfl, rfl⟩

theorem wipe : Statement .wipe := ⟨rfl, rfl⟩

theorem brsync : Statement .brsync := ⟨rfl, rfl⟩

theorem broff : Statement .broff := ⟨rfl, rfl⟩

theorem flash : Statement .flash := ⟨rfl, rfl⟩

theorem start : Statement .start := ⟨rfl, rfl⟩

theorem cancel : Statement .cancel := ⟨rfl, rfl⟩

theorem hsv2rgb (h : BitVec 16) (sat val : Byte) : Statement (.hsv2rgb h sat val) := ⟨rfl, Nat.and_zero _⟩

theorem scale (pix : Pixel) (pct : Byte) : Statement (.scale pix pct) := ⟨rfl, Nat.and_zero _⟩

/-- Bit 0 of a packed access is its kind. -/
theorem pack_mod_two (a : Access) : a.pack.toNat % 2 = a.kind.bit.toNat := by
  have h : a.pack.setWidth 1 = a.kind.bit := by
    apply BitVec.eq_of_getLsbD_eq
    intro i hi
    simp only [Access.pack, BitVec.getLsbD_setWidth, BitVec.getLsbD_append]
    simp_all
  simpa using congrArg BitVec.toNat h

theorem rd (n : RegNum) : Statement (.rd n) :=
  ⟨rfl, by simpa [row, bits, encode, Nat.and_one_is_mod, Kind.bit] using pack_mod_two ⟨.rd, n, 0⟩⟩

theorem wr (n : RegNum) (v : Word) : Statement (.wr n v) :=
  ⟨rfl, by simpa [row, bits, encode, Nat.and_one_is_mod, Kind.bit] using pack_mod_two ⟨.wr, n, v⟩⟩

end Sys2Proof.Laws.TableRow
end

