-- ==== Sys2Proof/Tests/Slice0.lean ====
section
/-! SUPPORT. Tests: the smoke tests of WellFormed, words written out from the encodings of the spec, one-step tests whose
expected values are those of spec/95_test_vectors.md (the table is named at each), and, for every statement with hypotheses,
a state and operands that meet them. -/

namespace Sys2Proof.Tests

open Sys2Proof.Machine

/-! ### Helpers -/

/-- The next state of an outcome. -/
def nextOf (o : Host.Outcome State Fault Refusal) : Option State :=
  match o with
  | .next s => some s
  | .fault _ => none
  | .refused _ => none

/-- One view of the state an instruction leaves. -/
def after {α : Type} (f : State → α) (o : Host.Outcome State Fault Refusal) : Option α := (nextOf o).map f

/-- A tick boundary with the given record and phase. -/
def tickAt (p : Patr) (phase : BitVec 18) : State := { State.reset with drv := .tick, patr := p, phase := phase }

/-- A table with three colours, red, green and blue. -/
def threeColours : ColorTable := ((ColorTable.zero.set 0 0xFF0000).set 1 0x00FF00).set 2 0x0000FF

def offPatr : Patr := { Patr.reset with aNled := 3 }

def staticPatr : Patr := { Patr.reset with aPat := 1, aNled := 2, aColor := ColorTable.zero.set 0 0x7F4000 }

def wipePatr : Patr :=
  { Patr.reset with aPat := 2, aNled := 6, aNcol := 3, aColor := threeColours, aStep := 1, aPeriod := 6 }

def brsyncPatr : Patr := { Patr.reset with aPat := 3, aNled := 2, aBright := 50, aStep := 128, aPeriod := 46080 }

def broffPatr : Patr := { Patr.reset with aPat := 4, aNled := 4, aBright := 100, aStep := 11520, aPeriod := 46080 }

def flashPatr : Patr :=
  { Patr.reset with
    aPat := 5, aNled := 2, aOn := 2, aOff := 3, aStep := 1, aPeriod := 5, aColor := ColorTable.zero.set 0 0x102030 }

/-- The reset state in another driver state. -/
def inDrv (d : Drv) : State := { State.reset with drv := d }

/-- The reset state with one move to come. -/
def withMoves (l : List Event) (s : State) : State := { s with script := l }

/-- The reset state with some configuration written. -/
def configured (c : Cfg) : State := { State.reset with cfg := c }

/-! ### WellFormed -/

theorem test_wellFormed_refuses_start_spelled_as_write : (Instr.wr 0 1).wellFormed = false := by decide

theorem test_wellFormed_refuses_cancel_spelled_as_write : (Instr.wr 0 2).wellFormed = false := by decide

theorem test_wellFormed_refuses_hsv2rgb_spelled_as_read : (Instr.rd 12).wellFormed = false := by decide

theorem test_wellFormed_refuses_scale_spelled_as_read : (Instr.rd 14).wellFormed = false := by decide

theorem test_wellFormed_admits_their_neighbours :
    (Instr.wr 0 0).wellFormed = true ∧ (Instr.wr 0 3).wellFormed = true ∧ (Instr.wr 1 1).wellFormed = true ∧
      (Instr.rd 11).wellFormed = true ∧ (Instr.rd 13).wellFormed = true ∧ Instr.start.wellFormed = true := by decide

/-! ### Decoding: words from the tables of rules R61 to R65 and R69 -/

theorem test_decode_patterns :
    decode (.p 0x00000000) = .ok .off ∧ decode (.p 0x00000001) = .ok .static ∧ decode (.p 0x00000002) = .ok .wipe ∧
      decode (.p 0x00000003) = .ok .brsync ∧ decode (.p 0x00000004) = .ok .broff ∧
      decode (.p 0x00000005) = .ok .flash := by decide

theorem test_decode_pattern_ignores_high_bits : decode (.p 0xFFFFFFFA) = .ok .wipe := by decide

theorem test_decode_reserved_patterns :
    decode (.p 0x00000006) = .error (.reservedPattern 6) ∧ decode (.p 0x0000000F) = .error (.reservedPattern 7) := by
  decide

theorem test_decode_commands :
    decode (.c 0x00000001) = .ok .start ∧ decode (.c 0x00000002) = .ok .cancel ∧
      decode (.c 0x00000000) = .error (.reservedCommand 0) ∧
      decode (.c 0x80000001) = .error (.reservedCommand 0x80000001) := by decide

/-- spec/95_test_vectors.md V2, row 6: H = 35264, S = 200, V = 100. -/
theorem test_decode_hsv2rgb : decode (.h 0x64C889C0) = .ok (.hsv2rgb 35264 200 100) := by decide

/-- spec/95_test_vectors.md V4, row 5: pixel 0x0A141E, percent 33. -/
theorem test_decode_scale : decode (.s 0x210A141E) = .ok (.scale 0x0A141E 33) := by decide

/-- Kind 1, number 3 in [6:1], data 6 in [38:7]: 6 × 128 + 3 × 2 + 1 (log entry 7). -/
theorem test_decode_access_write : decode (.a 775) = .ok (.wr 3 6) := by decide

/-- Kind 0, number 10 in [6:1] (log entry 7). -/
theorem test_decode_access_read : decode (.a 20) = .ok (.rd 10) := by decide

theorem test_decodeTableWord :
    decodeTableWord 8 2 = some .wipe ∧ decodeTableWord 8 0 = some (.rd 0) ∧ decodeTableWord 8 1 = some (.wr 0 0) ∧
      decodeTableWord 32 1 = some .start ∧ decodeTableWord 32 2 = some .cancel ∧
      decodeTableWord 32 0xC8801680 = some (.hsv2rgb 5760 128 200) ∧ decodeTableWord 8 6 = none := by decide

/-- Rule R43 at its edges: `n` from 0 to 63, `v` below 2^32. -/
theorem test_spellAccess_edges :
    spellAccess .wr 63 0xFFFFFFFF = .ok ⟨.wr, 63, 0xFFFFFFFF⟩ ∧ spellAccess .wr 64 0 = .error (.registerNumber 64) ∧
      spellAccess .wr 0 0x100000000 = .error (.dataWord 0x100000000) := by decide

/-- A number longer than its format is refused: 39 bits spell an access, 40 do not; 32 bits spell an operand word, 33 do not. -/
theorem test_decodeTableWord_refuses_long_words :
    decodeTableWord 40 (2 ^ 39 - 1) = some (.wr 63 0xFFFFFFFF) ∧ decodeTableWord 48 (2 ^ 39 + 775) = none ∧
      decodeTableWord 32 (2 ^ 32 - 1) = some (.hsv2rgb 65535 255 255) ∧ decodeTableWord 32 (2 ^ 32) = none := by decide

/-- A number that spells no word puts nothing in place. -/
theorem test_withFetchWord_refuses_long_words : State.reset.withFetchWord 48 (2 ^ 39 + 775) = State.reset := by decide

/-- A placed word is run by the very next step: START from reset gives OPENING (spec/95_test_vectors.md V6, row 1). -/
theorem test_withFetchWord_runs_start :
    after (fun s => (s.drv, s.history)) (step (State.reset.withFetchWord 32 1)) = some (.opening, [.openReq]) := by decide

/-- A placed pattern word: OFF on the LEDs of the reset PATR, which are none. -/
theorem test_withFetchWord_runs_wipe :
    after (fun s => (s.drv, s.history)) (step (State.reset.withFetchWord 8 2)) = some (.emit, [.frameOut []]) := by decide

/-! ### One step of each instruction -/

/-- spec/95_test_vectors.md V5, row 1. -/
theorem test_off : after (·.history) (exec .off (tickAt offPatr 0)) = some [.frameOut [0, 0, 0]] := by decide

/-- spec/95_test_vectors.md V5, row 3. -/
theorem test_static : after (·.history) (exec .static (tickAt staticPatr 0)) = some [.frameOut [0x7F4000, 0x7F4000]] := by
  decide

/-- spec/95_test_vectors.md V5, WIPE at phase 1. -/
theorem test_wipe :
    after (·.history) (exec .wipe (tickAt wipePatr 1)) =
      some [.frameOut [0x00FF00, 0x0000FF, 0xFF0000, 0x00FF00, 0x0000FF, 0xFF0000]] := by decide

/-- spec/95_test_vectors.md V5, BRSYNC at half brightness. -/
theorem test_brsync : after (·.history) (exec .brsync (tickAt brsyncPatr 3840)) = some [.frameOut [0x7F3F00, 0x7F3F00]] := by
  decide

/-- spec/95_test_vectors.md V5, BROFF at phase 11520: pixel 3 wraps. -/
theorem test_broff :
    after (·.history) (exec .broff (tickAt broffPatr 11520)) =
      some [.frameOut [0x7FFF00, 0x00FFFF, 0x7F00FF, 0xFF0000]] := by decide

/-- spec/95_test_vectors.md V5, BROFF on seven LEDs: the offsets are truncated. -/
theorem test_broff_truncates :
    after (·.history) (exec .broff (tickAt { broffPatr with aNled := 7 } 0)) =
      some [.frameOut [0xFF0000, 0xFFDA00, 0x48FF00, 0x00FF91, 0x0091FF, 0x4800FF, 0xFF00DA]] := by decide

/-- spec/95_test_vectors.md V5, FLASH at phase 1 and at phase 2. -/
theorem test_flash :
    after (·.history) (exec .flash (tickAt flashPatr 1)) = some [.frameOut [0x102030, 0x102030]] ∧
      after (·.history) (exec .flash (tickAt flashPatr 2)) = some [.frameOut [0, 0]] := by decide

/-- The worked example of rule R122. -/
theorem test_start_loads :
    after (fun s => (s.patr.aPat, s.patr.aNled, s.patr.aBright, s.patr.aColor.get 0, s.patr.aPeriod))
        (exec .start (configured { Cfg.reset with pat := 1, bright := 50, color := ColorTable.zero.set 0 0xFF8000 })) =
      some (1, 15, 50, 0x7F4000, 1) := by decide

/-- spec/95_test_vectors.md V6: STATUS after a failed START, causes 1, 2 and 3. -/
theorem test_start_fails :
    after statusWord (exec .start (configured { Cfg.reset with pat := 6 })) = some 0x00000115 ∧
      after statusWord (exec .start (configured { Cfg.reset with pat := 2, ncol := 17 })) = some 0x00000215 ∧
      after statusWord (exec .start (configured { Cfg.reset with pat := 5 })) = some 0x00000315 := by decide

/-- spec/95_test_vectors.md V7 and V8: CANCEL in CONFIG and in WAIT. -/
theorem test_cancel :
    after statusWord (exec .cancel State.reset) = some 0x00020000 ∧
      after statusWord (exec .cancel (inDrv .wait)) = some 0x00010004 := by decide

/-- spec/95_test_vectors.md V2, rows 1, 5 and 6. -/
theorem test_hsv2rgb :
    after (·.portOut) (exec (.hsv2rgb 5760 128 200) State.reset) = some (some 0x00C8AE63) ∧
      after (·.portOut) (exec (.hsv2rgb 25600 1 255) State.reset) = some (some 0x00FEFEFF) ∧
      after (·.portOut) (exec (.hsv2rgb 35264 200 100) State.reset) = some (some 0x00431564) := by decide

/-- spec/95_test_vectors.md V3: the largest legal hue and the smallest illegal one. -/
theorem test_hsv2rgb_illegal_hue :
    after (·.portOut) (exec (.hsv2rgb 46079 255 255) State.reset) = some (some 0x00FF0000) ∧
      after (·.portOut) (exec (.hsv2rgb 46080 0 0) State.reset) = some (some 0x80000000) := by decide

/-- spec/95_test_vectors.md V4, rows 3 and 10. -/
theorem test_scale :
    after (·.portOut) (exec (.scale 0x010203 99) State.reset) = some (some 0x00000102) ∧
      after (·.portOut) (exec (.scale 0xFFC803 255) State.reset) = some (some 0x008AFE07) := by decide

/-- spec/95_test_vectors.md V7, the reads at reset. -/
theorem test_rd :
    after (·.portOut) (exec (.rd 0) State.reset) = some (some 0) ∧
      after (·.portOut) (exec (.rd 3) State.reset) = some (some 15) ∧
      after (·.portOut) (exec (.rd 5) State.reset) = some (some 100) ∧
      after (·.portOut) (exec (.rd 63) State.reset) = some (some 0) := by decide

/-- Part P2 line 19: STATUS of a run that ended with a transport error and a refused write. -/
theorem test_rd_status :
    after (·.portOut) (exec (.rd 1) { inDrv .terminated with exit := .transport, werr := true }) =
      some (some 0x00020035) := by decide

/-- spec/95_test_vectors.md V7, the writes at reset. -/
theorem test_wr :
    after (hostRead 3) (exec (.wr 3 0x12345678) State.reset) = some 0x00005678 ∧
      after (hostRead 16) (exec (.wr 16 0xAB123456) State.reset) = some 0x00123456 ∧
      after (hostRead 5) (exec (.wr 5 0x1FF) State.reset) = some 0x000000FF ∧
      after statusWord (exec (.wr 40 1) State.reset) = some 0x00020000 := by decide

/-- spec/95_test_vectors.md V7, DRV = WAIT: a configuration write is dropped, a write to CONV_IN is not. -/
theorem test_wr_locked :
    after (fun s => (hostRead 5 s, s.werr)) (exec (.wr 5 10) (inDrv .wait)) = some (100, true) ∧
      after (fun s => (hostRead 12 s, s.werr)) (exec (.wr 11 0xFFFF3C00) (inDrv .wait)) = some (0x0000FF00, false) := by
  decide

/-- spec/95_test_vectors.md V8: T_OPEN. -/
theorem test_tOpen :
    after statusWord (step (withMoves [.tOpen .ok] (inDrv .opening))) = some 0x00000002 ∧
      after statusWord (step (withMoves [.tOpen .err] (inDrv .opening))) = some 0x00000025 := by decide

/-- spec/95_test_vectors.md V8: the phase advance at its wraps. -/
theorem test_tAns_advances :
    after (fun s => (s.phase, s.drv)) (step (withMoves [.tAns .ok] { tickAt wipePatr 5 with drv := .emit })) =
        some (0, .wait) ∧
      after (·.phase) (step (withMoves [.tAns .ok]
        { tickAt { brsyncPatr with aStep := 65535 } 38910 with drv := .emit })) = some 12285 := by decide

/-- spec/95_test_vectors.md V8: OFF ends, and the transport error wins over it. -/
theorem test_tAns_ends :
    after statusWord (step (withMoves [.tAns .ok] { tickAt offPatr 0 with drv := .emit, cancelPend := true })) =
        some 0x00010005 ∧
      after statusWord (step (withMoves [.tAns .err] { tickAt offPatr 0 with drv := .emit })) = some 0x00000035 := by decide

/-- spec/95_test_vectors.md V8: TMR, and a tick with a pending cancellation. -/
theorem test_tmr_and_cancelled_tick :
    after statusWord (step (withMoves [.tmr] (inDrv .wait))) = some 0x00000002 ∧
      after (fun s => (statusWord s, s.history)) (step { tickAt wipePatr 0 with cancelPend := true }) =
        some (0x00010045, []) := by decide

/-- spec/95_test_vectors.md V8: RESET from anywhere. -/
theorem test_reset :
    after (fun s => (statusWord s, s.patr, s.cfg, s.history))
        (step (withMoves [.reset] { tickAt wipePatr 5 with drv := .emit, werr := true, history := [.openReq] })) =
      some (0, Patr.reset, Cfg.reset, []) := by decide

/-! ### Witnesses: a state and operands that meet the hypotheses of each statement, for each of its clauses -/

theorem witness_EncodeOfDecodeIsTheCanonicalWord :
    decode (.p 0xFFFFFFF8) = .ok .off ∧ decode (.a 64) = .ok (.rd 32) := by decide

theorem witness_PatternWordIsReadThroughThreeBits :
    (0xFFFFFFF8 : Word).toNat % 8 = 0 ∧ (1 : Word).toNat % 8 = 1 ∧ (2 : Word).toNat % 8 = 2 ∧ (3 : Word).toNat % 8 = 3 ∧
      (4 : Word).toNat % 8 = 4 ∧ (5 : Word).toNat % 8 = 5 ∧ 6 ≤ (6 : Word).toNat % 8 ∧
      6 ≤ (0xFFFFFFFF : Word).toNat % 8 := by decide

theorem witness_CommandWordIsComparedOnAllBits :
    (1 : Word).toNat = 1 ∧ (2 : Word).toNat = 2 ∧ (0 : Word).toNat ≠ 1 ∧ (0 : Word).toNat ≠ 2 ∧ (3 : Word).toNat ≠ 1 ∧
      (3 : Word).toNat ≠ 2 := by decide

theorem witness_StepRunsTheDecodedInstruction :
    fetch (withMoves [.host ⟨.wr, 0, 1⟩] State.reset) = some (.c 1) ∧ decode (.c 1) = .ok .start := by decide

theorem witness_FetchTakesTheWordOfItsFormat :
    (withMoves [.host ⟨.wr, 0, 1⟩] State.reset).script = [.host ⟨.wr, 0, 1⟩] ∧
      (withMoves [.host ⟨.wr, 0, 2⟩] State.reset).script = [.host ⟨.wr, 0, 2⟩] ∧
      (withMoves [.host ⟨.rd, 12, 0⟩] State.reset).script = [.host ⟨.rd, 12, 0⟩] ∧
      (withMoves [.host ⟨.rd, 14, 0⟩] State.reset).script = [.host ⟨.rd, 14, 0⟩] ∧
      (withMoves [.host ⟨.rd, 13, 0⟩] State.reset).script = [.host ⟨.rd, 13, 0⟩] ∧ (13 : RegNum) ≠ 12 ∧
      (13 : RegNum) ≠ 14 ∧
      (withMoves [.host ⟨.wr, 0, 3⟩] State.reset).script = [.host ⟨.wr, 0, 3⟩] ∧
      ¬ ((0 : RegNum) = 0 ∧ ((3 : Word) = 1 ∨ (3 : Word) = 2)) ∧
      (tickAt wipePatr 0).script = [] ∧ (tickAt wipePatr 0).drv = .tick := by decide

theorem witness_HostAccessHasTheEffectOfItsRdOrWr :
    (withMoves [.host ⟨.rd, 63, 0⟩] State.reset).script = [.host ⟨.rd, 63, 0⟩] ∧
      (withMoves [.host ⟨.wr, 63, 0⟩] State.reset).script = [.host ⟨.wr, 63, 0⟩] := by decide

theorem witness_ReadReturnsTheMapAndChangesNothing :
    ({ State.reset with convIn := 0xFFFFB3FF } : State).convIn.toNat % 65536 < 46080 ∧
      46080 ≤ ({ State.reset with convIn := 0xFFFFB400 } : State).convIn.toNat % 65536 ∧ 32 ≤ (32 : RegNum).toNat ∧
      32 ≤ (63 : RegNum).toNat := by decide

theorem witness_WriteHasTheEffectsOfTheMap :
    (0 : Word) ≠ 1 ∧ (3 : Word) ≠ 2 ∧ 32 ≤ (32 : RegNum).toNat ∧ 32 ≤ (63 : RegNum).toNat ∧ State.reset.drv = .config ∧
      (inDrv .opening).drv ≠ .config ∧ (inDrv .terminated).drv ≠ .config ∧
      (2 ≤ (2 : RegNum).toNat ∧ (2 : RegNum).toNat ≤ 9) ∧ (2 ≤ (9 : RegNum).toNat ∧ (9 : RegNum).toNat ≤ 9) ∧
      (16 ≤ (16 : RegNum).toNat ∧ (16 : RegNum).toNat ≤ 31) ∧ (16 ≤ (31 : RegNum).toNat ∧ (31 : RegNum).toNat ≤ 31) := by
  decide

theorem witness_ConfigurationReadsBackWhatWasWritten :
    State.reset.drv = .config ∧
      ((2 : RegNum).toNat, 3) ∈ [(2, 3), (3, 16), (4, 32), (5, 8), (6, 16), (7, 16), (8, 16), (9, 5)] ∧
      ((9 : RegNum).toNat, 5) ∈ [(2, 3), (3, 16), (4, 32), (5, 8), (6, 16), (7, 16), (8, 16), (9, 5)] ∧
      (16 ≤ (16 : RegNum).toNat ∧ (16 : RegNum).toNat ≤ 31 ∧ 24 = 24) ∧
      (16 ≤ (31 : RegNum).toNat ∧ (31 : RegNum).toNat ≤ 31 ∧ 24 = 24) ∧ (15 : RegNum) ≠ 16 := by decide

theorem witness_ConfigurationIsLockedAfterStart :
    ∃ s t : State, s.drv ≠ .config ∧ resetNext s = false ∧ step s = .next t :=
  ⟨withMoves [.host ⟨.wr, 5, 10⟩] (inDrv .wait), _, by decide, by decide, rfl⟩

theorem witness_ActivePatternRecordIsWrittenByStartOnly :
    ∃ s t : State, resetNext s = false ∧ step s = .next t ∧ t.patr ≠ s.patr :=
  ⟨withMoves [.host ⟨.wr, 0, 1⟩] State.reset, _, by decide, rfl, by decide⟩

theorem witness_PhaseIsWrittenByStartAndAcceptedFramesOnly :
    ∃ s t : State, resetNext s = false ∧ step s = .next t ∧ t.phase ≠ s.phase :=
  ⟨withMoves [.tAns .ok] { tickAt wipePatr 5 with drv := .emit }, _, by decide, rfl, by decide⟩

theorem witness_Hsv2rgbOfALegalHue :
    (0 < 6 ∧ 0 < 7680 ∧ (0 : BitVec 16).toNat = 7680 * 0 + 0 ∧ 0 = (if 0 % 2 = 0 then 0 else 7680 - 0)) ∧
      (1 < 6 ∧ 0 < 7680 ∧ (7680 : BitVec 16).toNat = 7680 * 1 + 0 ∧ 7680 = (if 1 % 2 = 0 then 0 else 7680 - 0)) ∧
      (5 < 6 ∧ 7679 < 7680 ∧ (46079 : BitVec 16).toNat = 7680 * 5 + 7679 ∧
        1 = (if 5 % 2 = 0 then 7679 else 7680 - 7679)) := by decide

theorem witness_Hsv2rgbIsTheTruncatedStandardConversion :
    (0 : BitVec 16).toNat < 46080 ∧ (46079 : BitVec 16).toNat < 46080 := by decide

theorem witness_FullySaturatedHuesHaveOneFullChannel :
    (46079 : BitVec 16).toNat < 46080 ∧ (0 : BitVec 16).toNat = 0 ∧ (15360 : BitVec 16).toNat = 15360 ∧
      (30720 : BitVec 16).toNat = 30720 := by decide

theorem witness_Hsv2rgbChannelsLieBetweenLoAndValue : (46079 : BitVec 16).toNat < 46080 := by decide

theorem witness_IllegalHueReadsIllAndBlack :
    46080 ≤ (46080 : BitVec 16).toNat ∧ 46080 ≤ (65535 : BitVec 16).toNat := by decide

theorem witness_ScaleIsTheIdentityAtHundredAndNeverGrows : (0 : Byte).toNat ≤ 100 ∧ (100 : Byte).toNat ≤ 100 := by decide

theorem witness_UnitsShareNothingWithTheSequencer :
    ∃ s s' t : State, s ≠ s' ∧ withoutUnits s = withoutUnits s' ∧ step s = .next t :=
  ⟨tickAt wipePatr 1, { tickAt wipePatr 1 with convIn := 7, scaleIn := 8, portOut := some 9 }, _, by decide, by decide, rfl⟩

theorem witness_UnitAccessesLeaveTheSequencerAlone :
    (∃ t, exec (.hsv2rgb 1 2 3) State.reset = .next t) ∧ (∃ t, exec (.scale 1 2) State.reset = .next t) ∧
      (∃ t, exec (.rd 1) State.reset = .next t) ∧ (∃ t, exec (.wr 11 1) State.reset = .next t) ∧
      (∃ t, exec (.wr 13 1) State.reset = .next t) :=
  ⟨⟨_, rfl⟩, ⟨_, rfl⟩, ⟨_, rfl⟩, ⟨_, rfl⟩, ⟨_, rfl⟩⟩

/-- One configuration for each row of rule R108 and each check at the edge of its range. -/
theorem witness_StartLoadsThePatternRecord :
    State.reset.drv = .config ∧ State.reset.cfg.pat.toNat < 6 ∧
      ((configured { Cfg.reset with pat := 2, ncol := 1 }).cfg.pat = 2 ∧ 1 ≤ (1 : BitVec 5).toNat) ∧
      ((configured { Cfg.reset with pat := 2, ncol := 16 }).cfg.pat = 2 ∧ (16 : BitVec 5).toNat ≤ 16) ∧
      (configured { Cfg.reset with pat := 3 }).cfg.pat = 3 ∧
      ((configured { Cfg.reset with pat := 5, offTicks := 1 }).cfg.pat = 5 ∧
        1 ≤ (0 : BitVec 16).toNat + (1 : BitVec 16).toNat) := by decide

theorem witness_StartReportsTheFirstFailingCheck :
    State.reset.drv = .config ∧ 6 ≤ (configured { Cfg.reset with pat := 6 }).cfg.pat.toNat ∧
      6 ≤ (configured { Cfg.reset with pat := 7 }).cfg.pat.toNat ∧
      (configured { Cfg.reset with pat := 2 }).cfg.ncol.toNat = 0 ∧
      16 < (configured { Cfg.reset with pat := 2, ncol := 17 }).cfg.ncol.toNat ∧
      (configured { Cfg.reset with pat := 5 }).cfg.onTicks.toNat + Cfg.reset.offTicks.toNat = 0 := by decide

theorem witness_StartOutsideConfigIsRefused : (inDrv .opening).drv ≠ .config := by decide

theorem witness_CancelIsLatchedOrRefused :
    (inDrv .opening).drv = .opening ∧ (inDrv .tick).drv = .tick ∧ (inDrv .emit).drv = .emit ∧ (inDrv .wait).drv = .wait ∧
      (inDrv .config).drv = .config ∧ (inDrv .terminated).drv = .terminated := by decide

theorem witness_OffTickEmitsZeros : (tickAt offPatr 0).drv = .tick ∧ (tickAt offPatr 0).cancelPend = false := by decide

theorem witness_StaticTickEmitsTheColour :
    (tickAt staticPatr 0).drv = .tick ∧ (tickAt staticPatr 0).cancelPend = false := by decide

/-- The largest A_NCOL whose every index is in the table, and the empty strip. -/
theorem witness_WipeTickEmitsTheBands :
    (tickAt wipePatr 5).drv = .tick ∧ (tickAt wipePatr 5).cancelPend = false ∧ 1 ≤ wipePatr.aNcol.toNat ∧
      (∀ i, i < wipePatr.aNled.toNat → (i + (5 : BitVec 18).toNat) % wipePatr.aNcol.toNat < 16) ∧
      (tickAt { wipePatr with aNled := 0 } 0).patr.aNled = 0 ∧ 0 < wipePatr.aNled.toNat ∧
      (0 + (5 : BitVec 18).toNat) % wipePatr.aNcol.toNat = (2 : Fin 16).val := by
  exact ⟨rfl, rfl, by decide, fun _ _ => Nat.lt_of_lt_of_le (Nat.mod_lt _ (by decide)) (by decide), rfl, by decide,
    by decide⟩

theorem witness_BrsyncTickEmitsOneHue :
    (tickAt brsyncPatr 46079).drv = .tick ∧ (tickAt brsyncPatr 46079).cancelPend = false ∧
      (tickAt brsyncPatr 46079).phase.toNat < 46080 := by decide

theorem witness_BroffTickSpreadsTheHues :
    (tickAt broffPatr 46079).drv = .tick ∧ (tickAt broffPatr 46079).cancelPend = false ∧
      (tickAt broffPatr 46079).phase.toNat < 46080 ∧ 3 < broffPatr.aNled.toNat := by decide

theorem witness_FlashTickIsOnOrOff :
    (tickAt flashPatr 0).drv = .tick ∧ (tickAt flashPatr 0).cancelPend = false ∧
      1 ≤ flashPatr.aOn.toNat + flashPatr.aOff.toNat := by decide

theorem witness_PendingCancellationWinsOverEveryPattern :
    Instr.flash ∈ [Instr.off, .static, .wipe, .brsync, .broff, .flash] ∧ (tickAt flashPatr 0).drv = .tick ∧
      ({ tickAt flashPatr 0 with cancelPend := true } : State).cancelPend = true := by decide

theorem witness_PatternOutsideItsTickPasses :
    Instr.off ∈ [Instr.off, .static, .wipe, .brsync, .broff, .flash] ∧ (inDrv .wait).drv ≠ .tick := by decide

/-- A_NCOL = 0, an index of 16 with A_NCOL = 17, the hue 46080, a zero flash period, codes 6 and 7, A_PERIOD = 0. -/
theorem witness_ExcludedOperandsStopByName :
    ((tickAt { wipePatr with aNcol := 0 } 0).drv = .tick ∧ wipePatr.aNled ≠ 0) ∧
      (({ wipePatr with aNcol := 17 } : Patr).aNcol ≠ 0 ∧ 0 < wipePatr.aNled.toNat ∧
        16 ≤ (0 + (16 : BitVec 18).toNat) % (17 : BitVec 5).toNat) ∧
      46080 ≤ (tickAt brsyncPatr 46080).phase.toNat ∧
      ({ flashPatr with aOn := 0, aOff := 0 } : Patr).aOn.toNat + (0 : BitVec 16).toNat = 0 ∧
      6 ≤ ({ offPatr with aPat := 6 } : Patr).aPat.toNat ∧ 6 ≤ ({ offPatr with aPat := 7 } : Patr).aPat.toNat ∧
      (tickAt { offPatr with aPat := 6 } 0).script = [] ∧
      (withMoves [.tick] (tickAt { offPatr with aPat := 7 } 0)).script = [.tick] ∧
      ((withMoves [.tAns .ok] { tickAt { wipePatr with aPeriod := 0 } 0 with drv := .emit }).drv = .emit ∧
        wipePatr.aPat ≠ 0 ∧ ({ wipePatr with aPeriod := 0 } : Patr).aPeriod = 0) := by decide

theorem witness_SequencerTurnHandsOverGenFrame :
    (tickAt staticPatr 0).drv = .tick ∧ (tickAt staticPatr 0).script = [] ∧ (tickAt staticPatr 0).cancelPend = false ∧
      genFrame staticPatr 0 2 = .ok [0x7F4000, 0x7F4000] ∧
      (withMoves [.tick] { tickAt staticPatr 0 with cancelPend := true }).script = [.tick] := by
  refine ⟨rfl, rfl, rfl, rfl, rfl⟩

/-- Constructed records exist: the one of the wipe example is the record that START loads. -/
theorem wipePatr_constructed : wipePatr.Constructed := by
  refine ⟨by decide, by decide, by decide, by decide, by decide, by decide, by decide⟩

theorem witness_GenFrameHasOnePixelPerLed :
    genFrame staticPatr 0 2 = .ok [0x7F4000, 0x7F4000] ∧ wipePatr.Constructed ∧
      (5 : BitVec 18).toNat < wipePatr.aPeriod.toNat :=
  ⟨rfl, wipePatr_constructed, by decide⟩

theorem witness_UniformPatternsRepeatOnePixel :
    offPatr.aPat = 0 ∧ staticPatr.aPat = 1 ∧ (brsyncPatr.aPat = 3 ∧ (46079 : BitVec 18).toNat < 46080) ∧
      (flashPatr.aPat = 5 ∧ 1 ≤ flashPatr.aOn.toNat + flashPatr.aOff.toNat) := by decide

theorem witness_BandedPatternsComputeEachPixel :
    (wipePatr.aPat = 2 ∧ 1 ≤ wipePatr.aNcol.toNat ∧ ({ wipePatr with aNcol := 16 } : Patr).aNcol.toNat ≤ 16 ∧ 0 < 1 ∧
        (0 + (5 : BitVec 18).toNat) % wipePatr.aNcol.toNat = (2 : Fin 16).val) ∧
      (broffPatr.aPat = 4 ∧ (46079 : BitVec 18).toNat < 46080) := by decide

theorem witness_BroffOffsetsAreEvenlySpaced : 0 < 1 ∧ 65534 < 65535 ∧ 3 < 4 ∧ 46079 < 46080 := by decide

theorem witness_OpenAnswerStartsOrEndsTheRun :
    (withMoves [.tOpen .ok] (inDrv .opening)).drv = .opening ∧
      (withMoves [.tOpen .ok] (inDrv .opening)).script = [.tOpen .ok] ∧
      (withMoves [.tOpen .err] (inDrv .opening)).script = [.tOpen .err] := by decide

theorem witness_TransmitAnswerAdvancesOrEndsTheRun :
    (withMoves [.tAns .err] (inDrv .emit)).drv = .emit ∧ (withMoves [.tAns .err] (inDrv .emit)).script = [.tAns .err] ∧
      (withMoves [.tAns .ok] (inDrv .emit)).script = [.tAns .ok] ∧ offPatr.aPat = 0 ∧ wipePatr.aPat ≠ 0 ∧
      1 ≤ staticPatr.aPeriod.toNat := by decide

theorem witness_TimerOnlyReturnsToTheTick :
    (withMoves [.tmr] (inDrv .wait)).drv = .wait ∧ (withMoves [.tmr] (inDrv .wait)).script = [.tmr] := by decide

theorem witness_MovesThatAreNotEnabledPass :
    (inDrv .tick).drv ≠ .opening ∧ (inDrv .tick).drv ≠ .emit ∧ (inDrv .tick).drv ≠ .wait ∧ (inDrv .wait).drv ≠ .tick ∧
      (withMoves [.tick] (inDrv .wait)).script = [.tick] := by decide

theorem witness_ResetRestoresEveryElement :
    (withMoves [.reset] (inDrv .emit)).script = [.reset] := by decide

theorem witness_DriverStateFollowsTheTransitionTable :
    ∃ s t : State, step s = .next t ∧ t.drv ≠ s.drv :=
  ⟨withMoves [.tmr] (inDrv .wait), _, rfl, by decide⟩

theorem witness_TerminatedIsLeftOnlyByReset :
    ∃ s t : State, s.drv = .terminated ∧ resetNext s = false ∧ step s = .next t :=
  ⟨withMoves [.host ⟨.wr, 0, 1⟩] (inDrv .terminated), _, rfl, by decide, rfl⟩

theorem witness_FlagsAreClearedOnlyByReset :
    (∃ s t : State, resetNext s = false ∧ step s = .next t ∧ s.werr = true) ∧
      (∃ s t : State, resetNext s = false ∧ step s = .next t ∧ t.cancelPend ≠ s.cancelPend) ∧
      (∃ s t : State, resetNext s = false ∧ step s = .next t ∧ s.cancelPend = true ∧ t.exit ≠ s.exit) :=
  ⟨⟨{ inDrv .wait with werr := true }, _, by decide, rfl, rfl⟩,
    ⟨withMoves [.host ⟨.wr, 0, 2⟩] (inDrv .wait), _, by decide, rfl, by decide⟩,
    ⟨{ tickAt wipePatr 0 with cancelPend := true }, _, by decide, rfl, rfl, by decide⟩⟩

theorem witness_HistoryIsOnlyAppendedTo :
    (∃ s t : State, step s = .next t ∧ resetNext s = true) ∧
      (∃ s t : State, step s = .next t ∧ resetNext s = false ∧ t.history ≠ s.history) :=
  ⟨⟨withMoves [.reset] State.reset, _, rfl, by decide⟩, ⟨tickAt offPatr 0, _, rfl, by decide, by decide⟩⟩

theorem tickAt_wipe_inv : Inv (tickAt wipePatr 0) :=
  ⟨fun _ => wipePatr_constructed, fun _ => by decide, fun h => absurd rfl h, fun h => absurd rfl h, rfl⟩

theorem witness_StepKeepsTheInvariant : ∃ s t : State, Inv s ∧ step s = .next t ∧ t.drv = .emit :=
  ⟨tickAt wipePatr 0, _, tickAt_wipe_inv, rfl, rfl⟩

theorem witness_InvariantStatesNeverStop : Inv (tickAt wipePatr 0) := tickAt_wipe_inv

theorem tickAt_wipe_shape : HistoryShape { tickAt wipePatr 0 with history := [.openReq, .openAns .ok] } :=
  ⟨0, rfl, rfl, fun _ => rfl⟩

theorem witness_StepKeepsTheHistoryShape :
    ∃ s t : State, Inv s ∧ HistoryShape s ∧ step s = .next t ∧ t.history ≠ s.history :=
  ⟨{ tickAt wipePatr 0 with history := [.openReq, .openAns .ok] }, _,
    ⟨fun _ => wipePatr_constructed, fun _ => by decide, fun h => absurd rfl h, fun h => absurd rfl h, rfl⟩,
    tickAt_wipe_shape, rfl, by decide⟩

/-- A running history that holds a frame, under a constructed PATR, and, for the last clause, the history of an OFF run that
ended with SUCCESS. -/
theorem witness_ShapedHistoriesHoldTheFactsOfARun :
    (∃ s f, HistoryShape s ∧ s.patr.Constructed ∧ s.history ≠ [] ∧ f ∈ framesOf s.history) ∧
      HistoryShape { tickAt offPatr 0 with
        drv := .terminated, history := [.openReq, .openAns .ok, .frameOut [0, 0, 0], .transAns .ok] } :=
  ⟨⟨{ tickAt wipePatr 0 with drv := .emit, history := [.openReq, .openAns .ok, .frameOut (frameAt wipePatr 0)] },
      frameAt wipePatr 0, ⟨0, rfl, rfl, fun _ => rfl⟩, wipePatr_constructed, by decide, .head _⟩, rfl, rfl⟩

theorem witness_HueRateActsModuloOneTurn :
    brsyncPatr.aPeriod.toNat = 46080 ∧ (46079 : BitVec 18).toNat < 46080 ∧
      ({ brsyncPatr with aStep := 46208 } : Patr).aStep.toNat % 46080 = brsyncPatr.aStep.toNat % 46080 ∧
      ({ brsyncPatr with aStep := 46080 } : Patr).aStep.toNat = 46080 := by decide

theorem witness_OneTickIsTickAnswerTimer :
    Inv (withMoves [.tick, .tAns .ok, .tmr] (tickAt wipePatr 0)) ∧ (tickAt wipePatr 0).drv = .tick ∧
      (tickAt wipePatr 0).cancelPend = false ∧ wipePatr.aPat ≠ 0 ∧
      (withMoves [.tick, .tAns .ok, .tmr] (tickAt wipePatr 0)).script = [.tick, .tAns .ok, .tmr] :=
  ⟨⟨fun _ => wipePatr_constructed, fun _ => by decide, fun h => absurd rfl h, fun h => absurd rfl h, rfl⟩,
    rfl, rfl, by decide, rfl⟩

theorem witness_CancelInTheWaitEndsAtTheNextTick :
    (withMoves [.host ⟨.wr, 0, 2⟩, .tmr, .tick] (inDrv .wait)).drv = .wait ∧
      (withMoves [.host ⟨.wr, 0, 2⟩, .tmr, .tick] (inDrv .wait)).script = [.host ⟨.wr, 0, 2⟩, .tmr, .tick] := by decide

end Sys2Proof.Tests
end

/-! The invariant of rule R28 and the frame of a step, each by cases on `Move` and read off a step by `step_move`. -/

namespace Sys2Proof.Machine

/-! ### The invariant (rule R28) -/

/-- The invariant reads six elements of the state and no other. -/
theorem Inv.congr {s t : State} (h : Inv s) (hdrv : t.drv = s.drv) (hpatr : t.patr = s.patr) (hphase : t.phase = s.phase)
    (hexit : t.exit = s.exit) (hcause : t.cause = s.cause) (hpix : t.pix = s.pix) : Inv t := by
  obtain ⟨hcon, hper, hend, hconstruct, hidle⟩ := h
  constructor
  · rwa [hdrv, hpatr]
  · rwa [hdrv, hpatr, hphase]
  · rwa [hexit, hdrv]
  · rwa [hcause, hexit]
  · rwa [hpix]

/-- Before the end of a run no exit and no cause is recorded. -/
theorem Inv.exit_cause {s : State} (h : Inv s) (hd : s.drv ≠ .terminated) : s.exit = .success ∧ s.cause = .noCause := by
  have hexit : s.exit = .success := Decidable.byContradiction fun hne => hd (h.exitOnlyAtEnd hne)
  refine ⟨hexit, Decidable.byContradiction fun hne => ?_⟩
  have := h.causeOnlyConstruct hne
  simp [hexit] at this

/-- The end of a run asks nothing of PATR and PHASE. -/
theorem inv_raiseFatal {e : ExitCode} {c : Cause} {s : State} (hpix : s.pix = 0) (hc : c ≠ .noCause → e = .construct) :
    Inv (raiseFatal e c s) :=
  ⟨fun h => by simp [Drv.active] at h, fun h => by simp [Drv.active] at h, fun _ => rfl, hc, hpix⟩

/-- A run that starts or goes on, with nothing recorded of its end. -/
theorem inv_running {t : State} (hp : t.patr.Constructed) (hphase : t.phase.toNat < t.patr.aPeriod.toNat)
    (hclean : t.exit = .success ∧ t.cause = .noCause) (hpix : t.pix = 0) : Inv t :=
  ⟨fun _ => hp, fun _ => hphase, fun h => absurd hclean.1 h, fun h => absurd hclean.2 h, hpix⟩

theorem inv_reset : Inv State.reset :=
  ⟨fun h => by simp [Drv.active] at h, fun h => by simp [Drv.active] at h, fun h => absurd rfl h, fun h => absurd rfl h,
    rfl⟩

theorem Inv.advance {s : State} (h : Inv s) : Inv (advance s) := h.congr rfl rfl rfl rfl rfl rfl

theorem inv_resetPin (s : State) : Inv (resetPin s) := inv_reset.congr rfl rfl rfl rfl rfl rfl

/-- The one place where rule R28 (a) begins to hold: what START loads is constructed. -/
theorem Move.inv {e : Option Event} {s t : State} (m : Move e s t) (h : Inv s) : Inv t := by
  have hidle := h.pixIdle
  cases m with
  | started _ hd hc =>
    have hp := latchPatr_constructed hc
    exact inv_running hp hp.periodPositive (h.exit_cause (by simp [hd])) hidle
  | constructFailed => exact inv_raiseFatal hidle fun _ => rfl
  | tickCancelled | openFailed | transFailed | offDone => exact inv_raiseFatal hidle fun hc => absurd rfl hc
  | framed _ _ hd =>
    have ha : s.drv.active = true := by simp [hd, Drv.active]
    exact inv_running (h.constructed ha) (h.phaseInPeriod ha) (h.exit_cause (by simp [hd])) rfl
  | waited _ hd =>
    have ha : s.drv.active = true := by simp [hd, Drv.active]
    have hp := h.constructed ha
    exact inv_running hp (nextPhase_lt hp.periodPositive s.phase) (h.exit_cause (by simp [hd])) hidle
  | opened _ hd | fired _ hd =>
    have ha : s.drv.active = true := by simp [hd, Drv.active]
    exact inv_running (h.constructed ha) (h.phaseInPeriod ha) (h.exit_cause (by simp [hd])) hidle
  | _ => exact h.congr rfl rfl rfl rfl rfl rfl

/-- A step that is no RESET is one `Move`. -/
theorem step_move_of_not_reset {s t : State} (hr : resetNext s = false) (h : step s = .next t) :
    Move s.script.head? (advance s) t := by
  obtain ⟨hr', _⟩ | ⟨_, m⟩ := step_move h
  · simp [hr] at hr'
  · exact m

/-- Settles O53: RESET gives a state like the reset state, and every other step is a `Move`, which keeps the invariant. -/
theorem stepKeepsTheInvariant : Obligations.StepKeepsTheInvariant := by
  intro s t hs h
  obtain ⟨_, rfl⟩ | ⟨_, m⟩ := step_move h
  · exact inv_resetPin _
  · exact m.inv hs.advance

/-- Settles O52: outside a run the invariant asks only for cleared fields. -/
theorem resetStateMeetsTheInvariant : Obligations.ResetStateMeetsTheInvariant := inv_reset

/-! ### What a step leaves unchanged -/

theorem Move.cfg_eq {e : Option Event} {s t : State} (m : Move e s t) (hd : s.drv ≠ .config) : t.cfg = s.cfg := by
  cases m with
  | configured _ hd' => exact absurd hd' hd
  | _ => rfl

theorem Move.drv_ne_config {e : Option Event} {s t : State} (m : Move e s t) (hd : s.drv ≠ .config) : t.drv ≠ .config := by
  cases m with
  | pass | answered | convWritten | scaleWritten | configured | refused | cancelLatched => exact hd
  | _ => exact Drv.noConfusion

theorem Move.patr_eq {e : Option Event} {s t : State} (m : Move e s t) :
    t.patr = s.patr ∨ (s.drv = .config ∧ t.drv = .opening ∧ e = some (.host ⟨.wr, 0, 1⟩)) := by
  cases m with
  | started he hd _ => exact .inr ⟨hd, rfl, he⟩
  | _ => exact .inl rfl

theorem Move.phase_eq {e : Option Event} {s t : State} (m : Move e s t) :
    t.phase = s.phase ∨ (s.drv = .config ∧ t.drv = .opening ∧ t.phase = 0) ∨
      (s.drv = .emit ∧ t.drv = .wait ∧ s.patr.aPat ≠ 0 ∧ s.patr.aPeriod ≠ 0 ∧ t.phase = nextPhase s.patr s.phase) := by
  cases m with
  | started _ hd _ => exact .inr (.inl ⟨hd, rfl, rfl⟩)
  | waited _ hd hp h0 => exact .inr (.inr ⟨hd, rfl, hp, h0, rfl⟩)
  | _ => exact .inl rfl

theorem Move.werr_kept {e : Option Event} {s t : State} (m : Move e s t) (hw : s.werr = true) : t.werr = true := by
  cases m with
  | refused => rfl
  | _ => exact hw

/-- CANCEL_PEND changes only from 0 to 1, by a CANCEL during a run (rules R27, R123). -/
theorem Move.cancelPend_eq {e : Option Event} {s t : State} (m : Move e s t) :
    t.cancelPend = s.cancelPend ∨
      (t.cancelPend = true ∧ s.drv.active = true ∧ e = some (.host ⟨.wr, 0, 2⟩)) := by
  cases m with
  | cancelLatched he hd => exact .inr ⟨rfl, hd, he⟩
  | _ => exact .inl rfl

/-- EXIT and CAUSE are written by the termination entry only (rule R144). -/
theorem Move.exit_cause_eq {e : Option Event} {s t : State} (m : Move e s t) :
    (t.exit = s.exit ∧ t.cause = s.cause) ∨ (t.drv = .terminated ∧ s.drv ≠ .terminated) := by
  cases m with
  | constructFailed _ hd | tickCancelled _ hd | openFailed _ hd | transFailed _ hd | offDone _ hd =>
    exact .inr ⟨rfl, by simp [hd]⟩
  | _ => exact .inl ⟨rfl, rfl⟩

theorem Move.pastRuns_eq {e : Option Event} {s t : State} (m : Move e s t) : t.pastRuns = s.pastRuns := by
  cases m <;> rfl

/-- The driver state in which an event may be appended to the history (rules R51, R131). -/
def OutEvent.source : OutEvent → Drv
  | .openReq => .config
  | .openAns _ => .opening
  | .frameOut _ => .tick
  | .transAns _ => .emit

theorem Move.history_eq {e : Option Event} {s t : State} (m : Move e s t) :
    t.history = s.history ∨ ∃ o, t.history = s.history ++ [o] ∧ s.drv = o.source ∧
      ∀ f, o = .frameOut f → f.length = s.patr.aNled.toNat := by
  cases m with
  | framed f _ hd _ hf =>
    exact .inr ⟨_, rfl, hd, fun f' hf' => by cases hf'; exact genFrame_length hf⟩
  | started _ hd | opened _ hd | openFailed _ hd | transFailed _ hd | offDone _ hd | waited _ hd =>
    exact .inr ⟨_, rfl, hd, fun _ => nofun⟩
  | _ => exact .inl rfl

/-- The move at the head of the script is the next one listed. -/
theorem script_of_head {s : State} {e : Event} (h : s.script.head? = some e) : ∃ rest, s.script = e :: rest :=
  List.head?_eq_some_iff.mp h

/-- Settles O12: only a `Move` in CONFIG writes the configuration, and no `Move` leads to CONFIG. -/
theorem configurationIsLockedAfterStart : Obligations.ConfigurationIsLockedAfterStart := by
  intro s t hd hr h
  have m := step_move_of_not_reset hr h
  exact ⟨m.cfg_eq hd, m.drv_ne_config hd⟩

/-- Settles O13: the one `Move` that writes PATR is the accepted START. -/
theorem activePatternRecordIsWrittenByStartOnly : Obligations.ActivePatternRecordIsWrittenByStartOnly := by
  intro s t hr h
  obtain hp | ⟨hd, hd', he⟩ := (step_move_of_not_reset hr h).patr_eq
  · exact .inl hp
  · exact .inr ⟨hd, hd', script_of_head he⟩

/-- Settles O14: the advance is the remainder, since T_ANS(ok) with A_PERIOD = 0 answers no next state. -/
theorem phaseIsWrittenByStartAndAcceptedFramesOnly : Obligations.PhaseIsWrittenByStartAndAcceptedFramesOnly := by
  intro s t hr h
  obtain hp | hp | ⟨hd, hd', hpat, h0, hp⟩ := (step_move_of_not_reset hr h).phase_eq
  · exact .inl hp
  · exact .inr (.inl hp)
  · have hpos : 1 ≤ s.patr.aPeriod.toNat := Nat.pos_of_ne_zero fun hz => h0 (BitVec.eq_of_toNat_eq hz)
    exact .inr (.inr ⟨hd, hd', hpat, by rw [hp]; exact nextPhase_toNat hpos s.phase⟩)

/-- Settles O50, from the writers of each flag among the moves. -/
theorem flagsAreClearedOnlyByReset : Obligations.FlagsAreClearedOnlyByReset := by
  intro s t hr h
  have m := step_move_of_not_reset hr h
  refine ⟨m.werr_kept, fun hc => ?_, fun hne => ?_, fun hne => ?_⟩
  · obtain he | ⟨ht, _⟩ := m.cancelPend_eq
    · exact he.trans hc
    · exact ht
  · obtain he | ⟨_, hd, he⟩ := m.cancelPend_eq
    · exact absurd he hne
    · exact ⟨hd, script_of_head he⟩
  · obtain ⟨he, hc⟩ | hend := m.exit_cause_eq
    · exact (hne.elim (· he) (· hc)).elim
    · exact hend

/-- Settles O51: a move appends at most one event, in the event's own driver state; RESET closes the history. -/
theorem historyIsOnlyAppendedTo : Obligations.HistoryIsOnlyAppendedTo := by
  intro s t h
  obtain ⟨hr, rfl⟩ | ⟨hr, m⟩ := step_move h
  · exact ⟨fun _ => ⟨rfl, rfl⟩, fun hn => by simp [hr] at hn⟩
  · refine ⟨fun hn => by simp [hr] at hn, fun _ => ⟨m.pastRuns_eq, ?_⟩⟩
    obtain he | ⟨o, he, hd, hlen⟩ := m.history_eq
    · exact .inl he
    · refine .inr ⟨o, he, ?_, ?_, ?_, ?_⟩
      · rintro rfl; exact hd
      · rintro f rfl; exact ⟨hd, hlen f rfl⟩
      · rintro a rfl; exact hd
      · rintro a rfl; exact hd

end Sys2Proof.Machine

/-! The frames and the faults of a tick, and that no state of the invariant stops (rules R28, R100 to R110, R125, R127). -/

namespace Sys2Proof.Machine

/-! ### Faults of the frame generator -/

/-- If every fault of a pixel has the property `P` and some pixel asked for has a fault, the frame is a fault with `P`. -/
theorem genPixels_error {px : Nat → Except Fault Pixel} {P : Fault → Prop} (hP : ∀ j e, px j = .error e → P e) :
    ∀ (count i : Nat), (∃ j e, i ≤ j ∧ j < i + count ∧ px j = .error e) → ∃ e, genPixels px count i = .error e ∧ P e
  | 0, i, ⟨j, _, hij, hj, _⟩ => by omega
  | count + 1, i, ⟨j, e, hij, hj, hpx⟩ => by
    cases hi : px i with
    | error e' => exact ⟨e', by simp [genPixels, hi], hP i e' hi⟩
    | ok c =>
      have hne : i ≠ j := by rintro rfl; simp [hi] at hpx
      obtain ⟨e', hrest, he'⟩ := genPixels_error hP count (i + 1) ⟨j, e, by omega, by omega, hpx⟩
      exact ⟨e', by simp [genPixels, hi, hrest], he'⟩

theorem frameBy_error {px : Patr → BitVec 18 → Nat → Nat → Except Fault Pixel} {p : Patr} {phase : BitVec 18} {n i : Nat}
    {e : Fault} {P : Fault → Prop} (hP : ∀ j e, px p phase n j = .error e → P e) (hi : i < n)
    (h : px p phase n i = .error e) : ∃ e, frameBy px p phase n = .error e ∧ P e :=
  genPixels_error hP n 0 ⟨i, e, Nat.zero_le i, by omega, h⟩

/-- A pixel function that has no pixel gives no frame, unless the frame is empty. -/
theorem frameBy_fault {px : Patr → BitVec 18 → Nat → Nat → Except Fault Pixel} {p : Patr} {phase : BitVec 18} {n : Nat}
    {e : Fault} (hn : n ≠ 0) (h : ∀ j, px p phase n j = .error e) : frameBy px p phase n = .error e := by
  have hP : ∀ j e', px p phase n j = .error e' → e' = e := fun j e' hj => by simpa [hj] using h j
  obtain ⟨_, hf, rfl⟩ := frameBy_error hP (Nat.pos_of_ne_zero hn) (h 0)
  exact hf

theorem pxWipe_noColours {p : Patr} {phase : BitVec 18} {n i : Nat} (h : p.aNcol = 0) :
    pxWipe p phase n i = .error .wipeNoColours := by
  simp [pxWipe, h]

/-- Past the table there is no entry (rule R47). -/
theorem ColorTable.getElem?_past (t : ColorTable) {j : Nat} (h : 16 ≤ j) : t.entries[j]? = none := by
  simpa [t.full] using h

theorem pxWipe_index {p : Patr} {phase : BitVec 18} {n i : Nat} (h0 : p.aNcol.toNat ≠ 0)
    (h : 16 ≤ (i + phase.toNat) % p.aNcol.toNat) :
    pxWipe p phase n i = .error (.wipeIndex ((i + phase.toNat) % p.aNcol.toNat)) := by
  simp only [pxWipe, if_neg h0, ColorTable.getElem?_past _ h]

/-- With a colour count the only fault of a WIPE pixel is an index past the table. -/
theorem pxWipe_error {p : Patr} {phase : BitVec 18} {n i : Nat} {e : Fault} (h0 : p.aNcol.toNat ≠ 0)
    (h : pxWipe p phase n i = .error e) : ∃ j, 16 ≤ j ∧ e = .wipeIndex j := by
  by_cases hlt : (i + phase.toNat) % p.aNcol.toNat < 16
  · simp [pxWipe_ok (Nat.pos_of_ne_zero h0) hlt] at h
  · rw [pxWipe_index h0 (by omega)] at h
    cases h
    exact ⟨_, by omega, rfl⟩

theorem pxBrsync_illegalHue {p : Patr} {phase : BitVec 18} {n i : Nat} (h : 46080 ≤ phase.toNat) :
    pxBrsync p phase n i = .error (.illegalHue phase) := by
  simp [pxBrsync, Config.turn, Nat.not_lt.mpr h]

theorem pxBroff_illegalHue {p : Patr} {phase : BitVec 18} {n i : Nat} (h : 46080 ≤ phase.toNat) :
    pxBroff p phase n i = .error (.illegalHue phase) := by
  simp [pxBroff, Config.turn, Nat.not_lt.mpr h]

theorem pxFlash_zeroPeriod {p : Patr} {phase : BitVec 18} {n i : Nat} (h : p.aOn.toNat + p.aOff.toNat = 0) :
    pxFlash p phase n i = .error .flashZeroPeriod := by
  simp only [pxFlash, if_pos h]

/-- Codes 6 and 7 name no pixel function (rules R62, R100). -/
theorem genFrame_reserved {p : Patr} (h : 6 ≤ p.aPat.toNat) (phase : BitVec 18) (n : Nat) :
    genFrame p phase n = .error (.reservedPattern p.aPat) := by
  have hne : ∀ x : BitVec 3, x.toNat ≤ 5 → p.aPat ≠ x := by rintro x hx rfl; omega
  simp only [genFrame, if_neg (hne 0 (by decide)), if_neg (hne 1 (by decide)), if_neg (hne 2 (by decide)),
    if_neg (hne 3 (by decide)), if_neg (hne 4 (by decide)), if_neg (hne 5 (by decide))]

/-- A tick whose frame is a fault stops with it. -/
theorem sTick_fault {gen : Patr → BitVec 18 → Nat → Except Fault (List Pixel)} {s : State} {e : Fault}
    (hd : s.drv = .tick) (hc : s.cancelPend = false) (hf : gen s.patr s.phase s.patr.aNled.toNat = .error e) :
    sTick gen s = .fault e := by
  simp [sTick, hd, hc, hf]

/-! ### The moves of the environment, one equation each -/

theorem step_reset {s : State} {rest : List Event} (h : s.script = .reset :: rest) : step s = .next (resetPin (advance s)) := by
  rw [step_environment h (.inl rfl)]
  simp [environment, h, advance]

theorem step_tOpen {s : State} {a : Answer} {rest : List Event} (h : s.script = .tOpen a :: rest) :
    step s = .next (tOpen a (advance s)) := by
  rw [step_environment h (.inr (.inl ⟨a, rfl⟩))]
  simp [environment, h, advance]

theorem step_tAns {s : State} {a : Answer} {rest : List Event} (h : s.script = .tAns a :: rest) :
    step s = tAns a (advance s) := by
  rw [step_environment h (.inr (.inr (.inl ⟨a, rfl⟩)))]
  simp [environment, h, advance]

theorem step_tmr {s : State} {rest : List Event} (h : s.script = .tmr :: rest) : step s = .next (tmr (advance s)) := by
  rw [step_environment h (.inr (.inr (.inr rfl)))]
  simp [environment, h, advance]

/-! T_ANS, one equation per branch (rules R126, R127, R146). -/

theorem tAns_passes {a : Answer} {s : State} (hd : s.drv ≠ .emit) : tAns a s = .next s := by
  simp only [tAns, if_neg hd]

theorem tAns_err {s : State} (hd : s.drv = .emit) :
    tAns .err s = .next (raiseFatal .transport .noCause (emit (.transAns .err) s)) := by
  simp only [tAns, if_pos hd]

theorem tAns_off {s : State} (hd : s.drv = .emit) (hp : s.patr.aPat = 0) :
    tAns .ok s = .next (raiseFatal .success .noCause (emit (.transAns .ok) s)) := by
  simp only [tAns, if_pos hd, if_pos hp]

theorem tAns_zeroPeriod {s : State} (hd : s.drv = .emit) (hp : s.patr.aPat ≠ 0) (h0 : s.patr.aPeriod = 0) :
    tAns .ok s = .fault .zeroPeriod := by
  simp only [tAns, if_pos hd, if_neg hp, if_pos h0]

theorem tAns_advances {s : State} (hd : s.drv = .emit) (hp : s.patr.aPat ≠ 0) (h0 : s.patr.aPeriod ≠ 0) :
    tAns .ok s = .next { emit (.transAns .ok) s with phase := nextPhase s.patr s.phase, drv := .wait } := by
  simp only [tAns, if_pos hd, if_neg hp, if_neg h0]

/-- Settles O36: the first pixel without a value stops the tick; the reserved codes and the zero period stop by themselves. -/
theorem excludedOperandsStopByName : Obligations.ExcludedOperandsStopByName := by
  intro s
  refine ⟨fun hd hc hn => ?_, fun hd hc hp hs => ?_, fun rest hd hp h0 hs => ?_⟩
  · have hn' : s.patr.aNled.toNat ≠ 0 := fun hz => hn (BitVec.eq_of_toNat_eq hz)
    refine ⟨fun h => ?_, fun h ⟨i, hi, hidx⟩ => ?_, fun h => ⟨?_, ?_⟩, fun h => ?_⟩
    · exact sTick_fault hd hc (frameBy_fault hn' fun _ => pxWipe_noColours h)
    · have h0 : s.patr.aNcol.toNat ≠ 0 := fun hz => h (BitVec.eq_of_toNat_eq hz)
      obtain ⟨_, hf, j, hj, rfl⟩ := frameBy_error (fun _ _ => pxWipe_error h0) hi (pxWipe_index h0 hidx)
      exact ⟨j, hj, sTick_fault hd hc hf⟩
    · exact sTick_fault hd hc (frameBy_fault hn' fun _ => pxBrsync_illegalHue h)
    · exact sTick_fault hd hc (frameBy_fault hn' fun _ => pxBroff_illegalHue h)
    · exact sTick_fault hd hc (frameBy_fault hn' fun _ => pxFlash_zeroPeriod h)
  · rw [step_tick hs]
    exact sTick_fault hd hc (genFrame_reserved hp _ _)
  · rw [step_tAns hs]
    exact tAns_zeroPeriod hd hp h0

/-! ### Frames and progress -/

/-- Settles O38, from the two laws of the frame generator. -/
theorem genFrameHasOnePixelPerLed : Obligations.GenFrameHasOnePixelPerLed :=
  fun _ _ n => ⟨fun _ => genFrame_length, fun hp hphase => hp.genFrame_ok hphase n⟩

/-- The sequencer's turn answers a next state when a tick boundary has a frame. -/
theorem sTick_answers {gen : Patr → BitVec 18 → Nat → Except Fault (List Pixel)} {s : State}
    (h : s.drv = .tick → ∃ f, gen s.patr s.phase s.patr.aNled.toNat = .ok f) : ∃ t, sTick gen s = .next t := by
  by_cases hd : s.drv = .tick
  · cases hc : s.cancelPend with
    | true => exact ⟨_, sTick_cancelled hd hc⟩
    | false =>
      obtain ⟨f, hf⟩ := h hd
      exact ⟨_, sTick_emits hd hc hf⟩
  · exact ⟨s, sTick_passes hd⟩

/-- The answer to a frame has a next state when the phase advance is defined (rule R127). -/
theorem tAns_answers {a : Answer} {s : State} (h : s.drv = .emit → s.patr.aPeriod ≠ 0) : ∃ t, tAns a s = .next t := by
  by_cases hd : s.drv = .emit
  · cases a with
    | err => exact ⟨_, tAns_err hd⟩
    | ok =>
      by_cases hp : s.patr.aPat = 0
      · exact ⟨_, tAns_off hd hp⟩
      · exact ⟨_, tAns_advances hd hp (h hd)⟩
  · exact ⟨s, tAns_passes hd⟩

theorem Inv.sequencer_answers {s : State} (h : Inv s) : ∃ t, sTick genFrame s = .next t :=
  sTick_answers fun hd => by
    have ha : s.drv.active = true := by simp [hd, Drv.active]
    exact (h.constructed ha).genFrame_ok (h.phaseInPeriod ha) _

theorem Inv.tAns_answers {s : State} (h : Inv s) (a : Answer) : ∃ t, tAns a s = .next t :=
  Machine.tAns_answers fun hd h0 => by
    have ha : s.drv.active = true := by simp [hd, Drv.active]
    have hpos := (h.constructed ha).periodPositive
    simp [h0] at hpos

/-- Settles O54: only the sequencer's turn and T_ANS can stop, and the invariant gives the one a frame and the other a period. -/
theorem invariantStatesNeverStop : Obligations.InvariantStatesNeverStop := by
  intro s hs
  unfold Safe
  match hscript : s.script with
  | [] => rw [step_tick (.inl hscript)]; exact hs.advance.sequencer_answers
  | .tick :: rest => rw [step_tick (.inr ⟨rest, hscript⟩)]; exact hs.advance.sequencer_answers
  | .host ⟨.rd, n, v⟩ :: rest => exact ⟨_, step_host hscript⟩
  | .host ⟨.wr, n, v⟩ :: rest => exact ⟨_, step_host hscript⟩
  | .reset :: rest => exact ⟨_, step_reset hscript⟩
  | .tOpen a :: rest => exact ⟨_, step_tOpen hscript⟩
  | .tAns a :: rest => rw [step_tAns hscript]; exact hs.advance.tAns_answers a
  | .tmr :: rest => exact ⟨_, step_tmr hscript⟩

/-! ### RESET -/

@[simp] theorem ColorTable.get_zero (k : Fin 16) : ColorTable.zero.get k = 0 := by
  simp only [ColorTable.get, ColorTable.zero, List.getElem_replicate]

@[simp] theorem outstanding_resetPin (s : State) : (resetPin s).outstanding = none := rfl

@[simp] theorem timerArmed_resetPin (s : State) : (resetPin s).timerArmed = none := rfl

/-- Settles O46: `resetPin` takes every element from the reset state, whose values are those of the table. -/
theorem resetRestoresEveryElement : Obligations.ResetRestoresEveryElement := by
  intro s rest h
  refine ⟨_, step_reset h, ?_⟩
  simp [Cfg.reset, Patr.reset, h]

/-- Settles O47, by the values of the reset records. -/
theorem resetStateHasTheTableValues : Obligations.ResetStateHasTheTableValues := by
  simp [Obligations.ResetStateHasTheTableValues, Cfg.reset, Patr.reset, State.outstanding, State.timerArmed]

/-- Settles O55: the shape in CONFIG is the empty history. -/
theorem resetStateHasTheHistoryShape : Obligations.ResetStateHasTheHistoryShape := reset_history

end Sys2Proof.Machine

/-! The function units (rules R26, R64, R65, R82 to R89) and what START loads (rules R108, R122). -/

namespace Sys2Proof.Machine

/-! ### The function units -/

/-- An appended word is a sum, the high part at its place. -/
theorem toNat_append_eq_add {m n : Nat} (x : BitVec m) (y : BitVec n) : (x ++ y).toNat = x.toNat * 2 ^ n + y.toNat := by
  rw [BitVec.toNat_append, ← Nat.shiftLeft_add_eq_or_of_lt y.isLt, Nat.shiftLeft_eq]

/-- The operand word of HSV2RGB is the sum of its fields at their places (rule R64). -/
theorem hsvWord_toNat (h : BitVec 16) (sat val : Byte) :
    (hsvWord h sat val).toNat = val.toNat * 2 ^ 24 + sat.toNat * 2 ^ 16 + h.toNat := by
  simp only [hsvWord, toNat_append_eq_add]
  omega

/-- The operand word of SCALE is the sum of its fields at their places (rule R65). -/
theorem scaleWord_toNat (pix : Pixel) (pct : Byte) : (scaleWord pix pct).toNat = pct.toNat * 2 ^ 24 + pix.toNat :=
  toNat_append_eq_add pct pix

theorem convOut_legal {h : BitVec 16} (hh : h.toNat < 46080) (sat val : Byte) :
    convOut h sat val = zext32 (hsv2rgb h sat val) := by
  simp [convOut, illegalHue, Config.turn, Nat.not_le.mpr hh]

theorem convOut_illegal {h : BitVec 16} (hh : 46080 ≤ h.toNat) (sat val : Byte) : convOut h sat val = 0x80000000 := by
  simp [convOut, illegalHue, Config.turn, hh]

theorem low8_hsvLo_toNat (sat val : Byte) :
    (low8 (hsvLo sat.toNat val.toNat)).toNat = val.toNat * (255 - sat.toNat) / 255 := by
  have hle : hsvLo sat.toNat val.toNat ≤ val.toNat := hsvLo_le (by have := sat.isLt; omega)
  rw [low8_toNat, Nat.mod_eq_of_lt (by have := val.isLt; omega), hsvLo]

theorem low8_hsvMid_toNat {u : Nat} (hu : u ≤ 7680) (sat val : Byte) :
    (low8 (hsvMid u sat.toNat val.toNat)).toNat =
      val.toNat * ((255 - sat.toNat) * 7680 + sat.toNat * u) / 1958400 := by
  have hle : hsvMid u sat.toNat val.toNat ≤ val.toNat := hsvMid_le (by have := sat.isLt; omega) hu
  rw [low8_toNat, Nat.mod_eq_of_lt (by have := val.isLt; omega), hsvMid]

/-- The ramp rises in even sectors and falls in odd ones (rule R83). -/
theorem ramp_eq {k f : Nat} (hk : k < 6) (hf : f < 7680) :
    ramp (7680 * k + f) = if k % 2 = 0 then f else 7680 - f := by
  have hiff : (k = 0 ∨ k = 2 ∨ k = 4) ↔ k % 2 = 0 := by omega
  simp only [ramp, sectorOf_eq hk hf, sectorOffset_eq hk hf, Config.sector, hiff]

/-- Settles O15: the pixel is the one of `hsv2rgb`, its `lo` and `mid` fit in a channel, and the sector picks their order. -/
theorem hsv2rgbOfALegalHue : Obligations.Hsv2rgbOfALegalHue := by
  intro s h sat val k f u hk hf hh hu
  refine ⟨hsvWord h sat val, hsv2rgb h sat val, ?_, hsvWord_toNat h sat val, ?_⟩
  · show execHsv2rgb h sat val s = _
    rw [execHsv2rgb, convOut_legal (by omega)]
    rfl
  · have hramp : ramp h.toNat = u := by rw [hh, ramp_eq hk hf, hu]
    have hle : u ≤ 7680 := by rw [hu]; split <;> omega
    have hsector : sectorOf h.toNat = k := by rw [hh, sectorOf_eq hk hf]
    have hlo := low8_hsvLo_toNat sat val
    have hmid := low8_hsvMid_toNat hle sat val
    simp only [hsv2rgb, hramp, hsector]
    match k, hk with
    | 0, _ | 1, _ | 2, _ | 3, _ | 4, _ | 5, _ => simp only [red_rgb, green_rgb, blue_rgb, hlo, hmid]

/-- Settles O19: the hue is past one turn, so the converter is not asked. -/
theorem illegalHueReadsIllAndBlack : Obligations.IllegalHueReadsIllAndBlack := by
  intro s h sat val hh
  refine ⟨hsvWord h sat val, hsvWord_toNat h sat val, ?_⟩
  show execHsv2rgb h sat val s = _
  rw [execHsv2rgb, convOut_illegal hh]
  rfl

/-- Settles O20, from the channels of `scale` and the sum of the operand word's fields. -/
theorem scaleMultipliesAndTruncatesEachChannel : Obligations.ScaleMultipliesAndTruncatesEachChannel := by
  intro s pix pct
  exact ⟨scaleWord pix pct, scale pix pct, rfl, scaleWord_toNat pix pct, by simp, by simp, by simp⟩

/-- Settles O23: each of the five forms writes a unit register or the port and nothing else. -/
theorem unitAccessesLeaveTheSequencerAlone : Obligations.UnitAccessesLeaveTheSequencerAlone := by
  intro s t i hi h
  obtain ⟨_, _, _, rfl⟩ | ⟨_, _, rfl⟩ | ⟨_, rfl⟩ | ⟨_, rfl⟩ | ⟨_, rfl⟩ := hi <;> cases h <;> rfl

/-! ### START (rule R122) -/

theorem startCmd_refused {s : State} (hd : s.drv ≠ .config) : startCmd s = setWerr s := by
  simp [startCmd, hd]

theorem startCmd_passes {s : State} (hd : s.drv = .config) (hc : constructCheck s.cfg = .noCause) :
    startCmd s = emit .openReq { s with patr := latchPatr s.cfg, phase := 0, drv := .opening } := by
  simp [startCmd, hd, hc]

theorem startCmd_fails {s : State} (hd : s.drv = .config) (hc : constructCheck s.cfg ≠ .noCause) :
    startCmd s = raiseFatal .construct (constructCheck s.cfg) s := by
  obtain ⟨hd', _⟩ | ⟨_, hc', _⟩ | ⟨_, _, h⟩ := startCmd_cases s
  · exact absurd hd hd'
  · exact absurd hc' hc
  · exact h

/-- The converse of `constructCheck_noCause` (rule R141). -/
theorem constructCheck_passes {c : Cfg} (hpat : c.pat.toNat < 6)
    (hwipe : c.pat = 2 → 1 ≤ c.ncol.toNat ∧ c.ncol.toNat ≤ 16)
    (hflash : c.pat = 5 → 1 ≤ c.onTicks.toNat + c.offTicks.toNat) : constructCheck c = .noCause := by
  have hw : ¬ (c.pat = 2 ∧ (c.ncol.toNat = 0 ∨ Config.ncolMax < c.ncol.toNat)) := by
    rintro ⟨hp, hn⟩
    have := hwipe hp
    simp only [Config.ncolMax] at hn
    omega
  have hf : ¬ (c.pat = 5 ∧ c.onTicks.toNat + c.offTicks.toNat = 0) := by
    rintro ⟨hp, hn⟩
    have := hflash hp
    omega
  rw [constructCheck, if_neg (Nat.not_le.mpr hpat), if_neg hw, if_neg hf]

/-- Settles O24: the record is `latchPatr` of the configuration, its last two fields the row of rule R108. -/
theorem startLoadsThePatternRecord : Obligations.StartLoadsThePatternRecord := by
  intro s hd hpat hwipe hflash
  have hstart := startCmd_passes hd (constructCheck_passes hpat hwipe hflash)
  have hperiod := periodOf_toNat (c := s.cfg) (by omega)
  refine ⟨latchPatr s.cfg, congrArg Host.Outcome.next hstart, rfl, rfl, rfl, clampPct_toNat _, rfl, rfl, rfl,
    ColorTable.get_map _ _, ?_, ?_, ?_, ?_⟩
  · rintro (hp | hp) <;> simp [stepOf, periodOf, hp]
  · intro hp
    exact ⟨by simp [stepOf, hp], by simp [hperiod, hp]⟩
  · rintro (hp | hp) <;> exact ⟨by simp [stepOf, hp], by simp [hperiod, hp]⟩
  · intro hp
    exact ⟨by simp [stepOf, hp], by simp [hperiod, hp]⟩

/-! ### Noninterference of the units (rule R26): what a step makes of the state without them does not depend on them -/

/-- A result seen without the function-unit registers and the last read value. -/
def resultWithoutUnits : Result → Result
  | .next t => .next (withoutUnits t)
  | .fault e => .fault e
  | .refused r => .refused r

theorem resultWithoutUnits_eq_next {r : Result} {t : State} (h : resultWithoutUnits r = .next t) :
    ∃ t', r = .next t' ∧ t = withoutUnits t' := by
  cases r with
  | next t' => cases h; exact ⟨t', rfl, rfl⟩
  | fault | refused => cases h

theorem sTick_withoutUnits (gen : Patr → BitVec 18 → Nat → Except Fault (List Pixel)) (s : State) :
    resultWithoutUnits (sTick gen s) = resultWithoutUnits (sTick gen (withoutUnits s)) := by
  by_cases hd : s.drv = .tick
  · cases hc : s.cancelPend with
    | true => rw [sTick_cancelled hd hc, sTick_cancelled (s := withoutUnits s) hd hc]; rfl
    | false =>
      cases hf : gen s.patr s.phase s.patr.aNled.toNat with
      | ok f => rw [sTick_emits hd hc hf, sTick_emits (s := withoutUnits s) hd hc hf]; rfl
      | error e => rw [sTick_fault hd hc hf, sTick_fault (s := withoutUnits s) hd hc hf]
  · rw [sTick_passes hd, sTick_passes (s := withoutUnits s) hd]; rfl

theorem startCmd_withoutUnits (s : State) : withoutUnits (startCmd s) = withoutUnits (startCmd (withoutUnits s)) := by
  obtain ⟨hd, h⟩ | ⟨hd, hc, h⟩ | ⟨hd, hc, h⟩ := startCmd_cases s <;> rw [h]
  · rw [startCmd_refused (s := withoutUnits s) hd]; rfl
  · rw [startCmd_passes (s := withoutUnits s) hd hc]; rfl
  · rw [startCmd_fails (s := withoutUnits s) hd hc]; rfl

theorem cancelCmd_withoutUnits (s : State) : withoutUnits (cancelCmd s) = withoutUnits (cancelCmd (withoutUnits s)) := by
  obtain ⟨cfg, drv, _⟩ := s
  cases drv <;> rfl

theorem writeCmd_withoutUnits (v : Word) (s : State) :
    withoutUnits (writeCmd v s) = withoutUnits (writeCmd v (withoutUnits s)) := by
  unfold writeCmd
  split
  · exact startCmd_withoutUnits s
  · split
    · exact cancelCmd_withoutUnits s
    · rfl

theorem writeCfg_withoutUnits (r : Reg) (v : Word) (s : State) :
    withoutUnits (writeCfg r v s) = withoutUnits (writeCfg r v (withoutUnits s)) := by
  obtain ⟨cfg, drv, _⟩ := s
  cases drv <;> rfl

theorem hostWrite_withoutUnits (n : RegNum) (v : Word) (s : State) :
    withoutUnits (hostWrite n v s) = withoutUnits (hostWrite n v (withoutUnits s)) := by
  unfold hostWrite
  cases regOf n with
  | cmd => exact writeCmd_withoutUnits v s
  | pattern | ledCount | interval | bright | hueRate | onTicks | offTicks | ncol | color =>
    exact writeCfg_withoutUnits _ v s
  | status | phase | convIn | convOut | scaleIn | scaleOut | unmapped => rfl

theorem tOpen_withoutUnits (a : Answer) (s : State) :
    withoutUnits (tOpen a s) = withoutUnits (tOpen a (withoutUnits s)) := by
  obtain ⟨cfg, drv, _⟩ := s
  cases drv <;> cases a <;> rfl

theorem tAns_withoutUnits (a : Answer) (s : State) :
    resultWithoutUnits (tAns a s) = resultWithoutUnits (tAns a (withoutUnits s)) := by
  by_cases hd : s.drv = .emit
  · cases a with
    | err => rw [tAns_err hd, tAns_err (s := withoutUnits s) hd]; rfl
    | ok =>
      by_cases hp : s.patr.aPat = 0
      · rw [tAns_off hd hp, tAns_off (s := withoutUnits s) hd hp]; rfl
      · by_cases h0 : s.patr.aPeriod = 0
        · rw [tAns_zeroPeriod hd hp h0, tAns_zeroPeriod (s := withoutUnits s) hd hp h0]
        · rw [tAns_advances hd hp h0, tAns_advances (s := withoutUnits s) hd hp h0]; rfl
  · rw [tAns_passes hd, tAns_passes (s := withoutUnits s) hd]; rfl

theorem tmr_withoutUnits (s : State) : withoutUnits (tmr s) = withoutUnits (tmr (withoutUnits s)) := by
  obtain ⟨cfg, drv, _⟩ := s
  cases drv <;> rfl

/-- By the next move: reads and unit writes touch nothing else, and no other move looks at the units. -/
theorem step_withoutUnits (s : State) : resultWithoutUnits (step s) = resultWithoutUnits (step (withoutUnits s)) := by
  have next_congr : ∀ {t t' : State}, withoutUnits t = withoutUnits t' →
      resultWithoutUnits (.next t) = resultWithoutUnits (.next t') := congrArg Host.Outcome.next
  match hs : s.script with
  | [] =>
    rw [step_tick (.inl hs), step_tick (s := withoutUnits s) (.inl hs)]
    exact sTick_withoutUnits genFrame (advance s)
  | .tick :: rest =>
    rw [step_tick (.inr ⟨rest, hs⟩), step_tick (s := withoutUnits s) (.inr ⟨rest, hs⟩)]
    exact sTick_withoutUnits genFrame (advance s)
  | .host ⟨.rd, n, v⟩ :: rest => rw [step_host hs, step_host (s := withoutUnits s) hs]; rfl
  | .host ⟨.wr, n, v⟩ :: rest =>
    rw [step_host hs, step_host (s := withoutUnits s) hs]
    exact next_congr (hostWrite_withoutUnits n v (advance s))
  | .reset :: rest => rw [step_reset hs, step_reset (s := withoutUnits s) hs]; rfl
  | .tOpen a :: rest =>
    rw [step_tOpen hs, step_tOpen (s := withoutUnits s) hs]
    exact next_congr (tOpen_withoutUnits a (advance s))
  | .tAns a :: rest =>
    rw [step_tAns hs, step_tAns (s := withoutUnits s) hs]
    exact tAns_withoutUnits a (advance s)
  | .tmr :: rest =>
    rw [step_tmr hs, step_tmr (s := withoutUnits s) hs]
    exact next_congr (tmr_withoutUnits (advance s))

/-- Settles O22: both steps are the step of one state, the one with the units cleared. -/
theorem unitsShareNothingWithTheSequencer : Obligations.UnitsShareNothingWithTheSequencer := by
  intro s s' t hss h
  refine resultWithoutUnits_eq_next ?_
  calc resultWithoutUnits (step s') = resultWithoutUnits (step (withoutUnits s)) := by rw [step_withoutUnits, hss]
    _ = resultWithoutUnits (step s) := (step_withoutUnits s).symm
    _ = .next (withoutUnits t) := by rw [h, resultWithoutUnits]

end Sys2Proof.Machine

/-! The output history of a run: every step keeps its shape, and what a history of the shape holds (rules R51, R131). -/

namespace Sys2Proof.Machine

/-! ### Frames and phases by number (rule R131 (b)) -/

theorem frameAt_eq {p : Patr} {k : Nat} {f : List Pixel} (h : genFrame p (phaseAt p k) p.aNled.toNat = .ok f) :
    frameAt p k = f := by
  simp only [frameAt, h]

/-- Every frame of OFF is black (rule R101). -/
theorem frameAt_off {p : Patr} (h : p.aPat = 0) (k : Nat) : frameAt p k = List.replicate p.aNled.toNat 0 :=
  frameAt_eq (by rw [genFrame_off h]; exact frameBy_uniform fun _ _ => rfl)

theorem phaseAt_lt {p : Patr} (h : 1 ≤ p.aPeriod.toNat) (k : Nat) : (phaseAt p k).toNat < p.aPeriod.toNat := by
  rw [phaseAt_toNat h]
  exact Nat.mod_lt _ h

theorem Patr.Constructed.frameAt_length {p : Patr} (hp : p.Constructed) (k : Nat) :
    (frameAt p k).length = p.aNled.toNat := by
  obtain ⟨f, hf⟩ := hp.genFrame_ok (phaseAt_lt hp.periodPositive k) p.aNled.toNat
  rw [frameAt_eq hf]
  exact genFrame_length hf

@[simp] theorem phaseAt_zero (p : Patr) : phaseAt p 0 = 0 := by simp [phaseAt]

/-- One phase advance leads from the phase of a frame to that of the next (rules R127, R131 (b)). -/
theorem nextPhase_phaseAt {p : Patr} (h : p.aPeriod ≠ 0) (k : Nat) :
    nextPhase p (phaseAt p k) = phaseAt p (k + 1) := by
  have hpos : 1 ≤ p.aPeriod.toNat := Nat.pos_of_ne_zero fun hz => h (BitVec.eq_of_toNat_eq hz)
  apply BitVec.eq_of_toNat_eq
  rw [nextPhase_toNat hpos, phaseAt_toNat hpos, phaseAt_toNat hpos, Nat.mod_add_mod, Nat.succ_mul]

/-! ### The shape of the history is kept (rule R131) -/

/-- The shape reads five elements of the state and no other. -/
theorem HistoryShape.congr {s t : State} (h : HistoryShape s) (hdrv : t.drv = s.drv) (hexit : t.exit = s.exit)
    (hpatr : t.patr = s.patr) (hphase : t.phase = s.phase) (hhistory : t.history = s.history) : HistoryShape t := by
  rwa [HistoryShape, hdrv, hexit, hpatr, hphase, hhistory]

/-- Each event is appended in the driver state whose shape has room for it, and the number of accepted frames grows with
the phase, in T_ANS(ok). -/
theorem Move.historyShape {e : Option Event} {s t : State} (m : Move e s t) (h : HistoryShape s) : HistoryShape t := by
  cases m with
  | started _ hd =>
    rw [HistoryShape, hd] at h
    exact ⟨by simp [h], rfl⟩
  | constructFailed _ hd | tickCancelled _ hd =>
    rw [HistoryShape, hd] at h
    exact h
  | opened _ hd =>
    rw [HistoryShape, hd] at h
    obtain ⟨hhistory, hphase⟩ := h
    exact ⟨0, by simp [hhistory, acceptedRun], by simp [hphase], fun _ => rfl⟩
  | openFailed _ hd =>
    rw [HistoryShape, hd] at h
    obtain ⟨hhistory, _⟩ := h
    show s.history ++ [_] = _
    rw [hhistory]; rfl
  | framed f _ hd _ hf =>
    rw [HistoryShape, hd] at h
    obtain ⟨k, hhistory, hphase, hoff⟩ := h
    rw [hphase] at hf
    exact ⟨k, by simp [hhistory, frameAt_eq hf], hphase, hoff⟩
  | transFailed _ hd =>
    rw [HistoryShape, hd] at h
    obtain ⟨k, hhistory, hphase, hoff⟩ := h
    exact ⟨k, by simp [hhistory], hphase, hoff⟩
  | offDone _ hd hp =>
    rw [HistoryShape, hd] at h
    obtain ⟨k, hhistory, _, hoff⟩ := h
    exact ⟨hp, by simp [hhistory, hoff hp, acceptedRun, frameAt_off hp]⟩
  | waited _ hd hp h0 =>
    rw [HistoryShape, hd] at h
    obtain ⟨k, hhistory, hphase, _⟩ := h
    exact ⟨k, by simp [hhistory, acceptedRun], by simp [hphase, nextPhase_phaseAt h0], hp⟩
  | fired _ hd =>
    rw [HistoryShape, hd] at h
    obtain ⟨k, hhistory, hphase, hp⟩ := h
    exact ⟨k + 1, hhistory, hphase, fun hoff => absurd hoff hp⟩
  | _ => exact h.congr rfl rfl rfl rfl rfl

/-- Settles O56: RESET leaves the empty history of CONFIG, and every other step is a `Move`, which keeps the shape. -/
theorem stepKeepsTheHistoryShape : Obligations.StepKeepsTheHistoryShape := by
  intro s t _ hs h
  obtain ⟨_, rfl⟩ | ⟨_, m⟩ := step_move h
  · exact resetStateHasTheHistoryShape
  · exact m.historyShape (hs.congr rfl rfl rfl rfl rfl)

/-! ### A history of the shape (rules R51, R131) -/

@[simp] theorem framesOf_append_transAns (h : List OutEvent) (a : Answer) :
    framesOf (h ++ [.transAns a]) = framesOf h := by
  simp [framesOf]

@[simp] theorem framesOf_append_frameOut (h : List OutEvent) (f : List Pixel) :
    framesOf (h ++ [.frameOut f]) = framesOf h ++ [f] := by
  simp [framesOf]

/-- The history of a run that has handed over `k` frames: one OpenReq, first, and the frames in order. -/
structure RunHistory (p : Patr) (k : Nat) (h : List OutEvent) : Prop where
  openFirst : h.head? = some .openReq
  openOnce : h.count .openReq = 1
  frames : framesOf h = (List.range k).map (frameAt p)

theorem RunHistory.append_transAns {p : Patr} {k : Nat} {h : List OutEvent} (hr : RunHistory p k h) (a : Answer) :
    RunHistory p k (h ++ [.transAns a]) :=
  ⟨by simp [hr.openFirst], by simp [hr.openOnce], by simp [hr.frames]⟩

/-- After `k` frames comes the one with number `k`. -/
theorem RunHistory.append_frameOut {p : Patr} {k : Nat} {h : List OutEvent} (hr : RunHistory p k h) :
    RunHistory p (k + 1) (h ++ [.frameOut (frameAt p k)]) :=
  ⟨by simp [hr.openFirst], by simp [hr.openOnce], by simp [hr.frames, List.range_succ]⟩

theorem runHistory_acceptedRun (p : Patr) : ∀ k, RunHistory p k (acceptedRun p k)
  | 0 => ⟨rfl, rfl, rfl⟩
  | k + 1 => by simpa [acceptedRun] using (runHistory_acceptedRun p k).append_frameOut.append_transAns .ok

/-- The run with its next frame under way or not accepted. -/
theorem runHistory_offered (p : Patr) (k : Nat) : RunHistory p (k + 1) (acceptedRun p k ++ [.frameOut (frameAt p k)]) :=
  (runHistory_acceptedRun p k).append_frameOut

/-- A history of the shape is empty or the history of a run, of at most one frame for OFF. -/
theorem HistoryShape.runHistory {s : State} (h : HistoryShape s) :
    s.history = [] ∨ ∃ k, RunHistory s.patr k s.history ∧ (s.patr.aPat = 0 → k ≤ 1) := by
  unfold HistoryShape at h
  match s.drv, s.exit, h with
  | .config, _, h => exact .inl h
  | .opening, _, ⟨h, _⟩ => exact .inr ⟨0, h ▸ ⟨rfl, rfl, rfl⟩, fun _ => Nat.zero_le 1⟩
  | .tick, _, ⟨k, h, _, hoff⟩ => exact .inr ⟨k, h ▸ runHistory_acceptedRun _ k, fun hp => by simp [hoff hp]⟩
  | .emit, _, ⟨k, h, _, hoff⟩ => exact .inr ⟨k + 1, h ▸ runHistory_offered _ k, fun hp => by simp [hoff hp]⟩
  | .wait, _, ⟨k, h, _, hp⟩ =>
    exact .inr ⟨k + 1, h ▸ runHistory_acceptedRun _ (k + 1), fun hoff => absurd hoff hp⟩
  | .terminated, .construct, h => exact .inl h
  | .terminated, .openFailed, (h : s.history = [.openReq, .openAns .err]) =>
    exact .inr ⟨0, h ▸ ⟨rfl, rfl, rfl⟩, fun _ => Nat.zero_le 1⟩
  | .terminated, .transport, ⟨k, h, _, hoff⟩ =>
    have hrun := (runHistory_offered s.patr k).append_transAns .err
    exact .inr ⟨k + 1, by simpa [h] using hrun, fun hp => by simp [hoff hp]⟩
  | .terminated, .cancelled, ⟨k, h, _, hoff⟩ =>
    exact .inr ⟨k, h ▸ runHistory_acceptedRun _ k, fun hp => by simp [hoff hp]⟩
  | .terminated, .success, ⟨hp, h⟩ =>
    have hrun := runHistory_acceptedRun s.patr 1
    exact .inr ⟨1, by simpa [h, acceptedRun, frameAt_off hp] using hrun, fun _ => Nat.le_refl 1⟩

/-- The shape at SUCCESS is a run of OFF (rule R131 (e)). -/
theorem HistoryShape.success {s : State} (h : HistoryShape s) (hd : s.drv = .terminated) (hx : s.exit = .success) :
    s.patr.aPat = 0 ∧ framesOf s.history = [List.replicate s.patr.aNled.toNat 0] := by
  rw [HistoryShape, hd, hx] at h
  obtain ⟨hp, hhistory⟩ := h
  exact ⟨hp, by rw [hhistory]; rfl⟩

/-- Settles O57: every clause but the last is read off the run's history, and the last is the shape at SUCCESS. -/
theorem shapedHistoriesHoldTheFactsOfARun : Obligations.ShapedHistoriesHoldTheFactsOfARun := by
  intro s h
  obtain hnil | ⟨k, hrun, hoff⟩ := h.runHistory
  · have hframes : framesOf s.history = [] := by rw [hnil]; rfl
    exact ⟨by simp [hnil], fun hne => absurd hnil hne, ⟨0, hframes, fun _ => Nat.zero_le 1⟩, by simp [hframes],
      h.success⟩
  · refine ⟨hrun.openOnce.le, fun _ => hrun.openFirst, ⟨k, hrun.frames, hoff⟩, fun hp f hf => ?_, h.success⟩
    rw [hrun.frames] at hf
    obtain ⟨j, _, rfl⟩ := List.mem_map.mp hf
    exact hp.frameAt_length j

end Sys2Proof.Machine

/-! The host register port (rules R44, R45, R66), the frame of WIPE (rule R103) and the moves that
are not enabled (rule R120). -/

namespace Sys2Proof.Machine

/-! ### Host accesses as RD and WR (rules R44, R45, R60) -/

/-- The move taken is the head of the script. -/
theorem advance_of_script {s : State} {e : Event} {rest : List Event} (h : s.script = e :: rest) :
    advance s = { s with script := rest } := by
  rw [advance, h, List.tail_cons]

theorem exec_wr (n : RegNum) (v : Word) (s : State) : exec (.wr n v) s = .next (hostWrite n v s) := rfl

/-- Settles O8, by the law that runs any host access as its RD or WR. -/
theorem hostAccessHasTheEffectOfItsRdOrWr : Obligations.HostAccessHasTheEffectOfItsRdOrWr := by
  intro s rest n v
  constructor <;> intro hs <;> rw [step_host hs, advance_of_script hs] <;> rfl

/-! ### Reads (rule R44) -/

theorem zext32_toNat {w : Nat} (x : BitVec w) (hw : w ≤ 32 := by decide) : (zext32 x).toNat = x.toNat :=
  BitVec.toNat_setWidth_of_le hw

/-- STATUS is the sum of its fields at their bits (rule R22). -/
theorem statusWord_toNat (s : State) :
    (statusWord s).toNat = s.drv.code.toNat + 16 * s.exit.code.toNat + 256 * s.cause.code.toNat
      + 65536 * s.cancelPend.toNat + 131072 * s.werr.toNat := by
  simp only [statusWord, toNat_append_eq_add, BitVec.toNat_ofBool, BitVec.reduceToNat]
  omega

/-- The hue of an operand word is its value modulo 2^16 (rule R64). -/
theorem hueField_toNat (w : Word) : (hueField w).toNat = w.toNat % 65536 := by
  simp [hueField]

theorem hostRead_color (k : Fin 16) (s : State) :
    hostRead (BitVec.ofNat 6 (16 + k.val)) s = zext32 (s.cfg.color.get k) := by
  simp only [hostRead, regOf_color]

theorem regOf_unmapped : ∀ n : RegNum, 32 ≤ n.toNat → regOf n = .unmapped := by decide

/-- Settles O9, row by row: each row is the map's at that number, its value zero-extended. -/
theorem readReturnsTheMapAndChangesNothing : Obligations.ReadReturnsTheMapAndChangesNothing := by
  intro s
  refine ⟨fun _ => rfl, rfl, statusWord_toNat s, zext32_toNat _, zext32_toNat _, rfl, zext32_toNat _, zext32_toNat _,
    zext32_toNat _, zext32_toNat _, zext32_toNat _, zext32_toNat _, rfl, fun hh => ?_, fun hh => ?_, rfl, zext32_toNat _,
    rfl, fun k => ?_, fun n hn => ?_⟩
  · show (convOut (hueField s.convIn) (satField s.convIn) (valField s.convIn)).toNat = _
    rw [convOut_legal (by rwa [hueField_toNat])]
    exact zext32_toNat _
  · exact convOut_illegal (by rwa [hueField_toNat]) _ _
  · rw [hostRead_color]
    exact zext32_toNat _
  · simp only [hostRead, regOf_unmapped n hn]

/-! ### Writes (rule R45) -/

/-- Numbers that take no write: read-only and unmapped registers (rules R41, R45). -/
theorem hostWrite_readOnly {n : RegNum} (h : n = 1 ∨ n = 10 ∨ n = 12 ∨ n = 14 ∨ n = 15 ∨ 32 ≤ n.toNat)
    (v : Word) (s : State) : hostWrite n v s = setWerr s := by
  obtain rfl | rfl | rfl | rfl | rfl | hn := h
  · rfl
  · rfl
  · rfl
  · rfl
  · rfl
  · simp only [hostWrite, regOf_unmapped n hn]

theorem writeCmd_reserved {v : Word} (h1 : v ≠ 1) (h2 : v ≠ 2) (s : State) : writeCmd v s = setWerr s := by
  simp only [writeCmd, if_neg h1, if_neg h2]

theorem writeCfg_inConfig {s : State} (hd : s.drv = .config) (r : Reg) (v : Word) :
    writeCfg r v s = { s with cfg := storeField r v s.cfg } := if_pos hd

theorem writeCfg_locked {s : State} (hd : s.drv ≠ .config) (r : Reg) (v : Word) : writeCfg r v s = setWerr s := if_neg hd

/-- The numbers of the configuration registers (rule R41). -/
abbrev IsCfgNumber (n : RegNum) : Prop := (2 ≤ n.toNat ∧ n.toNat ≤ 9) ∨ (16 ≤ n.toNat ∧ n.toNat ≤ 31)

theorem isCfgNumber_color : ∀ k : Fin 16, IsCfgNumber (BitVec.ofNat 6 (16 + k.val)) := by decide

/-- In CONFIG a write to a configuration register stores its field and changes nothing else (rules R11, R45). -/
theorem hostWrite_inConfig {s : State} (hd : s.drv = .config) {n : RegNum} (hn : IsCfgNumber n) (v : Word) :
    hostWrite n v s = { s with cfg := storeField (regOf n) v s.cfg } := by
  rw [hostWrite_cfg hn, writeCfg_inConfig hd]

/-- Settles O10, row by row; a field is the low bits of the word written. -/
theorem writeHasTheEffectsOfTheMap : Obligations.WriteHasTheEffectsOfTheMap := by
  intro s v
  refine ⟨rfl, rfl, fun h1 h2 => ?_, fun n hn => ?_, rfl, rfl, fun hd => ?_, fun hd n hn => ?_⟩
  · exact congrArg Host.Outcome.next (writeCmd_reserved h1 h2 s)
  · exact congrArg Host.Outcome.next (hostWrite_readOnly hn v s)
  · have write : ∀ {n : RegNum}, IsCfgNumber n →
        exec (.wr n v) s = .next { s with cfg := storeField (regOf n) v s.cfg } := fun hn =>
      congrArg Host.Outcome.next (hostWrite_inConfig hd hn v)
    simp only [← BitVec.setWidth_eq_extractLsb', Nat.reduceLeDiff]
    refine ⟨write (by decide), write (by decide), write (by decide), write (by decide), write (by decide),
      write (by decide), write (by decide), write (by decide), fun k => ?_⟩
    rw [write (isCfgNumber_color k), regOf_color]
    rfl
  · rw [exec_wr, hostWrite_cfg hn, writeCfg_locked hd]
    rfl

/-! ### Reading back (rule R66) -/

/-- The width of the field a configuration register keeps (rules R12 to R19, R66); no other register keeps one. -/
def Reg.fieldWidth : Reg → Option Nat
  | .pattern => some 3
  | .ledCount | .hueRate | .onTicks | .offTicks => some 16
  | .interval => some 32
  | .bright => some 8
  | .ncol => some 5
  | .color _ => some 24
  | .cmd | .status | .phase | .convIn | .convOut | .scaleIn | .scaleOut | .unmapped => none

/-- A stored field reads back zero-extended. -/
theorem hostRead_storeField_same {n : RegNum} {w : Nat} (hw : (regOf n).fieldWidth = some w) (v : Word) (s : State) :
    (hostRead n { s with cfg := storeField (regOf n) v s.cfg }).toNat = v.toNat % 2 ^ w := by
  have low : ∀ {w : Nat}, w ≤ 32 → (zext32 (v.setWidth w)).toNat = v.toNat % 2 ^ w := fun hw => by
    rw [zext32_toNat _ hw, BitVec.toNat_setWidth]
  unfold hostRead
  cases hr : regOf n with
  | pattern | ledCount | bright | hueRate | onTicks | offTicks | ncol =>
    rw [hr] at hw
    cases hw
    exact low (by decide)
  | interval =>
    rw [hr] at hw
    cases hw
    exact (Nat.mod_eq_of_lt v.isLt).symm
  | color k =>
    rw [hr] at hw
    cases hw
    simp only [storeField, ColorTable.get_set_same]
    exact low (by decide)
  | cmd | status | phase | convIn | convOut | scaleIn | scaleOut | unmapped => rw [hr] at hw; cases hw

/-- A stored field is read at its own register only: every row but that one reads another element of the state. -/
theorem hostRead_storeField_other {m : RegNum} {r : Reg} (h : regOf m ≠ r) (v : Word) (s : State) :
    hostRead m { s with cfg := storeField r v s.cfg } = hostRead m s := by
  unfold hostRead
  cases hm : regOf m with
  | cmd | status | phase | convIn | convOut | scaleIn | scaleOut | unmapped => rfl
  | color j =>
    cases r with
    | color k =>
      have hjk : j ≠ k := fun he => h (by rw [hm, he])
      simp only [storeField, ColorTable.get_set_other _ _ _ _ hjk]
    | _ => rfl
  | pattern | ledCount | interval | bright | hueRate | onTicks | offTicks | ncol =>
    cases r <;> first | rfl | exact absurd hm h

/-- The field width by number (rule R66). -/
theorem fieldWidth_regOf {n : RegNum} {w : Nat}
    (h : (n.toNat, w) ∈ [(2, 3), (3, 16), (4, 32), (5, 8), (6, 16), (7, 16), (8, 16), (9, 5)] ∨
      (16 ≤ n.toNat ∧ n.toNat ≤ 31 ∧ w = 24)) : IsCfgNumber n ∧ (regOf n).fieldWidth = some w := by
  have scalar : ∀ n : RegNum, ∀ q ∈ [(2, 3), (3, 16), (4, 32), (5, 8), (6, 16), (7, 16), (8, 16), (9, 5)],
      n.toNat = q.1 → IsCfgNumber n ∧ (regOf n).fieldWidth = some q.2 := by decide
  have colour : ∀ n : RegNum, 16 ≤ n.toNat → n.toNat ≤ 31 →
      IsCfgNumber n ∧ (regOf n).fieldWidth = some 24 := by decide
  obtain h | ⟨hlo, hhi, rfl⟩ := h
  · exact scalar n _ h rfl
  · exact colour n hlo hhi

/-- Settles O11: the write stores the field; it reads back at its number, and no other number names its register. -/
theorem configurationReadsBackWhatWasWritten : Obligations.ConfigurationReadsBackWhatWasWritten := by
  intro s n w v hd h
  obtain ⟨hn, hw⟩ := fieldWidth_regOf h
  refine ⟨_, congrArg Host.Outcome.next (hostWrite_inConfig hd hn v), hostRead_storeField_same hw v s, fun m hm => ?_⟩
  have hmapped : regOf n ≠ .unmapped := fun hu => by rw [hu] at hw; cases hw
  exact hostRead_storeField_other (fun he => hm (regOf_injective he hmapped)) v s

/-! ### WIPE at a tick boundary (rules R47, R103) -/

/-- The band of pixel `i`: the entry of A_COLOR that rule R103 names, 0 where there is none. -/
def wipePixel (p : Patr) (phase : BitVec 18) (i : Nat) : Pixel :=
  (p.aColor.entries[(i + phase.toNat) % p.aNcol.toNat]?).getD 0

theorem wipePixel_eq {p : Patr} {phase : BitVec 18} {i : Nat} {k : Fin 16}
    (h : (i + phase.toNat) % p.aNcol.toNat = k.val) : wipePixel p phase i = p.aColor.get k := by
  rw [wipePixel, h, ColorTable.getElem?_entries _ _ k.isLt]
  rfl

/-- With every index inside the table the frame is the bands in order. -/
theorem frameBy_wipe {p : Patr} {phase : BitVec 18} {n : Nat}
    (h : ∀ i, i < n → 1 ≤ p.aNcol.toNat ∧ (i + phase.toNat) % p.aNcol.toNat < 16) :
    frameBy pxWipe p phase n = .ok ((List.range n).map (wipePixel p phase)) := by
  apply frameBy_ok
  intro i hi
  obtain ⟨h0, hidx⟩ := h i hi
  rw [pxWipe_ok h0 hidx, wipePixel_eq (k := ⟨_, hidx⟩) rfl]

/-- Settles O30: the frame is the bands, and `wipePixel` is the table's entry at an index inside it. -/
theorem wipeTickEmitsTheBands : Obligations.WipeTickEmitsTheBands := by
  intro s hd hc hidx
  have hbands : ∀ i, i < s.patr.aNled.toNat →
      1 ≤ s.patr.aNcol.toNat ∧ (i + s.phase.toNat) % s.patr.aNcol.toNat < 16 := by
    intro i hi
    obtain hempty | ⟨h0, hlt⟩ := hidx
    · simp [hempty] at hi
    · exact ⟨h0, hlt i hi⟩
  refine ⟨_, sTick_emits hd hc (frameBy_wipe hbands), by simp, fun i k hi hk => ?_⟩
  simp [hi, wipePixel_eq hk]

/-! ### Moves that are not enabled (rule R120) -/

theorem tOpen_passes {a : Answer} {s : State} (hd : s.drv ≠ .opening) : tOpen a s = s := if_neg hd

theorem tmr_passes {s : State} (hd : s.drv ≠ .wait) : tmr s = s := if_neg hd

/-- Settles O45: each of the four steps passes outside its driver state, so only the move is taken off the script. -/
theorem movesThatAreNotEnabledPass : Obligations.MovesThatAreNotEnabledPass := by
  intro s e rest hs he
  rw [← advance_of_script hs]
  obtain ⟨⟨a, rfl⟩, hd⟩ | ⟨⟨a, rfl⟩, hd⟩ | ⟨rfl, hd⟩ | ⟨rfl, hd⟩ := he
  · rw [step_tOpen hs, tOpen_passes (s := advance s) hd]
  · rw [step_tAns hs, tAns_passes (s := advance s) hd]
  · rw [step_tmr hs, tmr_passes (s := advance s) hd]
  · rw [step_tick (.inr ⟨rest, hs⟩), sTick_passes (s := advance s) hd]

end Sys2Proof.Machine

/-! Decoding and encoding (rules R60 to R65, R68, R69): the fields of each format's word, and that `decode` and `encode` undo
each other up to the bits a format ignores. -/

namespace Sys2Proof

open Machine (toNat_append_eq_add hsvWord_toNat scaleWord_toNat)

/-! ### The function-unit formats H and S (rules R64, R65) -/

/-- A field of a word is a digit of its value. -/
theorem toNat_extractLsb'_eq_div {w : Nat} (x : BitVec w) (start len : Nat) :
    (x.extractLsb' start len).toNat = x.toNat / 2 ^ start % 2 ^ len := by
  rw [BitVec.extractLsb'_toNat, Nat.shiftRight_eq_div_pow]

@[simp] theorem hueField_hsvWord (h : BitVec 16) (sat val : Byte) : hueField (hsvWord h sat val) = h := by
  apply BitVec.eq_of_toNat_eq
  rw [hueField, toNat_extractLsb'_eq_div, hsvWord_toNat]
  omega

@[simp] theorem satField_hsvWord (h : BitVec 16) (sat val : Byte) : satField (hsvWord h sat val) = sat := by
  apply BitVec.eq_of_toNat_eq
  rw [satField, toNat_extractLsb'_eq_div, hsvWord_toNat]
  omega

@[simp] theorem valField_hsvWord (h : BitVec 16) (sat val : Byte) : valField (hsvWord h sat val) = val := by
  apply BitVec.eq_of_toNat_eq
  rw [valField, toNat_extractLsb'_eq_div, hsvWord_toNat]
  omega

@[simp] theorem pixField_scaleWord (pix : Pixel) (pct : Byte) : pixField (scaleWord pix pct) = pix := by
  apply BitVec.eq_of_toNat_eq
  rw [pixField, toNat_extractLsb'_eq_div, scaleWord_toNat]
  omega

@[simp] theorem pctField_scaleWord (pix : Pixel) (pct : Byte) : pctField (scaleWord pix pct) = pct := by
  apply BitVec.eq_of_toNat_eq
  rw [pctField, toNat_extractLsb'_eq_div, scaleWord_toNat]
  omega

/-- Settles O2: the fixed words of the eight codes decode by evaluation, and the others give back the fields they were put
together from. -/
theorem decodeOfEncodeIsTheInstruction : Obligations.DecodeOfEncodeIsTheInstruction := by
  intro i
  cases i with
  | off | static | wipe | brsync | broff | flash | start | cancel => rfl
  | hsv2rgb h sat val => simp [encode, decode]
  | scale pix pct => simp [encode, decode]
  | rd n => exact decode_pack ⟨.rd, n, 0⟩
  | wr n v => exact decode_pack ⟨.wr, n, v⟩

/-! ### The pattern format P (rules R61, R62) -/

/-- Bits [31:3] take no part in the decode (rule R61). -/
theorem decode_pattern_canonical (w : Word) : decode (.p w) = decode (.p ((patternCode w).setWidth 32)) := by
  simp only [decode, decodePattern, patternCode_setWidth]

theorem patternCode_eq_ofNat (w : Word) : patternCode w = BitVec.ofNat 3 w.toNat := by
  apply BitVec.eq_of_toNat_eq
  rw [patternCode, toNat_extractLsb'_eq_div, BitVec.toNat_ofNat, pow_zero, Nat.div_one]

theorem patternCode_of_mod {w : Word} {k : Nat} (h : w.toNat % 8 = k) : patternCode w = BitVec.ofNat 3 k := by
  rw [patternCode_eq_ofNat, ← BitVec.toNat_inj, BitVec.toNat_ofNat, BitVec.toNat_ofNat]
  omega

/-- The pattern words with no ignored bit set are the ones the encoder writes. -/
theorem encode_of_decode_patternCode {x : BitVec 3} {i : Instr} (h : decode (.p (x.setWidth 32)) = .ok i) :
    encode i = .p (x.setWidth 32) := by
  obtain rfl | rfl | rfl | rfl | rfl | rfl | rfl | rfl := bitVec3_cases x <;> cases h <;> rfl

/-- Settles O4: the value modulo 8 is the pattern code, and each code decodes by evaluation. -/
theorem patternWordIsReadThroughThreeBits : Obligations.PatternWordIsReadThroughThreeBits := by
  intro w
  have code : ∀ {k : Nat}, w.toNat % 8 = k → decode (.p w) = decode (.p ((BitVec.ofNat 3 k).setWidth 32)) := fun h => by
    rw [decode_pattern_canonical, patternCode_of_mod h]
  refine ⟨code, code, code, code, code, code, fun h => ?_⟩
  rw [← patternCode_eq_ofNat]
  obtain h6 | h7 : w.toNat % 8 = 6 ∨ w.toNat % 8 = 7 := by omega
  · rw [code h6, patternCode_of_mod h6]; rfl
  · rw [code h7, patternCode_of_mod h7]; rfl

/-! ### The access format A (rule R69, log entry 7) -/

/-- The packed access is the sum of its fields at their places. -/
theorem pack_toNat (a : Access) : a.pack.toNat = a.v.toNat * 2 ^ 7 + a.n.toNat * 2 + a.kind.bit.toNat := by
  simp only [Access.pack, toNat_append_eq_add]
  omega

theorem unpackAccess_kind_bit (t : BitVec 39) : (unpackAccess t).kind.bit = t.extractLsb' 0 1 := by
  have key : ∀ b : BitVec 1, (if b = 0 then Kind.rd else .wr).bit = b := by decide
  exact key _

/-- The converse of `unpack_pack`: the three fields cover the word. -/
theorem pack_unpackAccess (t : BitVec 39) : (unpackAccess t).pack = t := by
  apply BitVec.eq_of_toNat_eq
  rw [pack_toNat, unpackAccess_kind_bit]
  simp only [unpackAccess, toNat_extractLsb'_eq_div]
  omega

/-- The word of a read keeps the low seven bits, kind and number. -/
theorem pack_read {t : BitVec 39} (hk : t.extractLsb' 0 1 = 0) :
    Access.pack ⟨.rd, t.extractLsb' 1 6, 0⟩ = (t.setWidth 7).setWidth 39 := by
  have heven : t.toNat / 2 ^ 0 % 2 ^ 1 = 0 := by rw [← toNat_extractLsb'_eq_div, hk]; rfl
  apply BitVec.eq_of_toNat_eq
  simp only [pack_toNat, toNat_extractLsb'_eq_div, BitVec.toNat_setWidth, Kind.bit, BitVec.reduceToNat]
  omega

/-- An access word is its instruction's word, but for the data word of a read. -/
theorem encode_decodeAccess (t : BitVec 39) : encode (decodeAccess t) = Coded.canonical (.a t) := by
  by_cases hk : t.extractLsb' 0 1 = 0
  · have hrd : decodeAccess t = .rd (t.extractLsb' 1 6) := by simp only [decodeAccess, unpackAccess, if_pos hk]
    rw [hrd, encode, pack_read hk, Coded.canonical, if_pos hk]
  · have hkind : (unpackAccess t).kind = .wr := if_neg hk
    have hwr : decodeAccess t = .wr (unpackAccess t).n (unpackAccess t).v := by simp only [decodeAccess, hkind]
    rw [hwr, encode, ← hkind, Coded.canonical, if_neg hk]
    exact congrArg Coded.a (pack_unpackAccess t)

/-- Settles O3, format by format; only P and A ignore a bit. -/
theorem encodeOfDecodeIsTheCanonicalWord : Obligations.EncodeOfDecodeIsTheCanonicalWord := by
  intro c i h
  cases c with
  | p w => exact encode_of_decode_patternCode ((decode_pattern_canonical w).symm.trans h)
  | c w =>
    simp only [decode, decodeCommand] at h
    split at h
    · next hw => cases h; rw [hw]; rfl
    · split at h
      · next hw => cases h; rw [hw]; rfl
      · cases h
  | h w => cases h; exact congrArg Coded.h (hsvWord_fields w)
  | s w => cases h; exact congrArg Coded.s (scaleWord_fields w)
  | a t => cases h; exact encode_decodeAccess t

/-- Settles O1: seven closed words, each decoded by evaluation. -/
theorem tableWordsDecodeToTheirInstructions : Obligations.TableWordsDecodeToTheirInstructions := by
  unfold Obligations.TableWordsDecodeToTheirInstructions
  decide

end Sys2Proof

namespace Sys2Proof.Machine

/-! ### Commands (rule R63) -/

theorem decode_reservedCommand {v : Word} (h1 : v ≠ 1) (h2 : v ≠ 2) : decode (.c v) = .error (.reservedCommand v) := by
  simp only [decode, decodeCommand, if_neg h1, if_neg h2]

/-- Settles O5: a word is fixed by its value, so the two commands are closed words and any other is the reserved write. -/
theorem commandWordIsComparedOnAllBits : Obligations.CommandWordIsComparedOnAllBits := by
  intro v s
  have word : ∀ {k : Word}, v.toNat = k.toNat → v = k := BitVec.eq_of_toNat_eq
  refine ⟨fun h => ?_, fun h => ?_, fun h1 h2 => ?_⟩
  · obtain rfl : v = 1 := word h
    exact ⟨rfl, rfl⟩
  · obtain rfl : v = 2 := word h
    exact ⟨rfl, rfl⟩
  · have hv1 : v ≠ 1 := by rintro rfl; exact h1 rfl
    have hv2 : v ≠ 2 := by rintro rfl; exact h2 rfl
    exact ⟨decode_reservedCommand hv1 hv2, congrArg Host.Outcome.next (writeCmd_reserved hv1 hv2 s)⟩

/-! ### Fetch and the step (rules R5, R60) -/

theorem step_of_fetch {s : State} {c : Coded} (h : fetch s = some c) : step s = runWord c (advance s) := by
  simp only [step, h]

/-- Settles O6: the step runs the fetched word past its move, and a word that decodes runs its instruction. -/
theorem stepRunsTheDecodedInstruction : Obligations.StepRunsTheDecodedInstruction := by
  intro s c i hf hd
  rw [step_of_fetch hf, runWord_ok hd]
  rfl

theorem fetch_host {s : State} {a : Access} {rest : List Event} (h : s.script = .host a :: rest) :
    fetch s = some (accessCoded s.convIn s.scaleIn a) := by
  simp only [fetch, h]

theorem fetch_tick {s : State} (h : s.script = [] ∨ ∃ rest, s.script = .tick :: rest) (hd : s.drv = .tick) :
    fetch s = some (.p (zext32 s.patr.aPat)) := by
  obtain h | ⟨rest, h⟩ := h <;> simp only [fetch, h, if_pos hd]

/-- A read that runs no function unit is itself (rule R69). -/
theorem accessCoded_plainRead {n : RegNum} (h12 : n ≠ 12) (h14 : n ≠ 14) (convIn scaleIn v : Word) :
    accessCoded convIn scaleIn ⟨.rd, n, v⟩ = .a (Access.pack ⟨.rd, n, v⟩) := by
  simp only [accessCoded, if_neg h12, if_neg h14]

/-- A write that names no command is itself (rules R63, R69). -/
theorem accessCoded_plainWrite {n : RegNum} {v : Word} (h : ¬ (n = 0 ∧ (v = 1 ∨ v = 2))) (convIn scaleIn : Word) :
    accessCoded convIn scaleIn ⟨.wr, n, v⟩ = .a (Access.pack ⟨.wr, n, v⟩) := by
  have hc : ¬ isCommandWrite n v = true := by simpa [isCommandWrite] using h
  simp only [accessCoded, if_neg hc]

/-- Settles O7: the word of each host access by its register, and of the sequencer's turn from A_PAT. -/
theorem fetchTakesTheWordOfItsFormat : Obligations.FetchTakesTheWordOfItsFormat := by
  intro s rest n v
  refine ⟨fetch_host, fetch_host, fetch_host, fetch_host, fun h h12 h14 => ?_, fun h hc => ?_, fun h hd => ?_⟩
  · rw [fetch_host h, accessCoded_plainRead h12 h14, Option.map_some, decode_pack]
  · rw [fetch_host h, accessCoded_plainWrite hc, Option.map_some, decode_pack]
  · exact fetch_tick (h.imp_right fun h => ⟨rest, h⟩) hd

end Sys2Proof.Machine

/-! HSV2RGB as the standard conversion over the rationals (rules R67, R81, R83; spec/93_implementation_defined.md G1). -/

namespace Sys2Proof.Machine

theorem floor_natCast_div_div (n a b : ℕ) : ⌊(n : ℚ) / a / b⌋ = (n / (a * b) : ℕ) := by
  rw [div_div, ← Nat.cast_mul]
  exact_mod_cast Rat.floor_natCast_div_natCast n (a * b)

/-- The sector is the whole part of hue/60 (rule R82). -/
theorem floor_hue_div_60 {k f : Nat} (hf : f < 7680) : ⌊((7680 * k + f : ℕ) : ℚ) / 128 / 60⌋ = k := by
  have hfloor := floor_natCast_div_div (7680 * k + f) 128 60
  rwa [show (7680 * k + f) / (128 * 60) = k by omega] at hfloor

/-- Two sectors make one turn of `(hue / 60) mod 2`. -/
theorem floor_hue_div_120 {k f : Nat} (hf : f < 7680) : ⌊((7680 * k + f : ℕ) : ℚ) / 128 / 120⌋ = (k / 2 : ℕ) := by
  have hfloor := floor_natCast_div_div (7680 * k + f) 128 120
  rwa [show (7680 * k + f) / (128 * 120) = k / 2 by omega] at hfloor

/-- `1 - |(hue / 60) mod 2 - 1|` is the ramp of rule R83 over the width of a sector: it rises in even sectors, where
`(hue / 60) mod 2` is below 1, and falls in odd ones. -/
theorem one_sub_abs_hue_eq_ramp {k f : Nat} (hk : k < 6) (hf : f < 7680) :
    1 - |((7680 * k + f : ℕ) : ℚ) / 128 / 60 - 2 * (⌊((7680 * k + f : ℕ) : ℚ) / 128 / 120⌋ : ℚ) - 1| =
      (ramp (7680 * k + f) : ℚ) / 7680 := by
  have hf' : (f : ℚ) ≤ 7680 := by exact_mod_cast hf.le
  rw [floor_hue_div_120 hf, ramp_eq hk hf]
  obtain ⟨j, rfl | rfl⟩ := Nat.even_or_odd' k
  · have hdist : ((7680 * (2 * j) + f : ℕ) : ℚ) / 128 / 60 - 2 * ((2 * j / 2 : ℕ) : ℤ) - 1 = -(1 - f / 7680) := by
      rw [Nat.mul_div_cancel_left j two_pos]
      push_cast
      ring
    rw [hdist, abs_neg, abs_of_nonneg (by linarith), if_pos (Nat.mul_mod_right 2 j)]
    ring
  · have hdist : ((7680 * (2 * j + 1) + f : ℕ) : ℚ) / 128 / 60 - 2 * (((2 * j + 1) / 2 : ℕ) : ℤ) - 1 = f / 7680 := by
      rw [show (2 * j + 1) / 2 = j by omega]
      push_cast
      ring
    rw [hdist, abs_of_nonneg (by positivity), if_neg (by omega), Nat.cast_sub hf.le]
    push_cast
    ring

/-! The three channel values of rule R83 are the components of the conversion, scaled to 255 and truncated once (rule R81). -/

theorem floor_value_channel (sat val : ℕ) :
    ⌊255 * ((val : ℚ) / 255 * (sat / 255) + (val / 255 - val / 255 * (sat / 255)))⌋ = (val : ℤ) := by
  rw [add_sub_cancel, mul_div_cancel₀ _ (by norm_num), Int.floor_natCast]

theorem floor_lo_channel {sat : ℕ} (hs : sat ≤ 255) (val : ℕ) :
    ⌊255 * (0 + ((val : ℚ) / 255 - val / 255 * (sat / 255)))⌋ = (hsvLo sat val : ℤ) := by
  have hlo : 255 * (0 + ((val : ℚ) / 255 - val / 255 * (sat / 255))) = (val * (255 - sat) : ℕ) / (255 : ℕ) := by
    push_cast [Nat.cast_sub hs]
    ring
  rw [hlo, Rat.floor_natCast_div_natCast]
  rfl

theorem floor_mid_channel {sat : ℕ} (hs : sat ≤ 255) (val u : ℕ) :
    ⌊255 * ((val : ℚ) / 255 * (sat / 255) * (u / 7680) + (val / 255 - val / 255 * (sat / 255)))⌋ =
      (hsvMid u sat val : ℤ) := by
  have hmid : 255 * ((val : ℚ) / 255 * (sat / 255) * (u / 7680) + (val / 255 - val / 255 * (sat / 255))) =
      (val * ((255 - sat) * 7680 + sat * u) : ℕ) / (1958400 : ℕ) := by
    push_cast [Nat.cast_sub hs]
    ring
  rw [hmid, Rat.floor_natCast_div_natCast]
  rfl

/-- Settles O16: the whole part of hue/60 picks the sector's row of the table, and in each row the three channels are the
three truncated components. -/
theorem hsv2rgbIsTheTruncatedStandardConversion : Obligations.Hsv2rgbIsTheTruncatedStandardConversion := by
  intro h sat val hh hue saturation value c m x p rgb1
  obtain ⟨k, f, hk, hf, hkf⟩ := hue_sector hh
  have hs : sat.toNat ≤ 255 := by omega
  have hx : x = c * (ramp h.toNat / 7680) := by
    simp only [x, hue, hkf, one_sub_abs_hue_eq_ramp hk hf]
  have hhi : (val.toNat : ℤ) = ⌊255 * (c + m)⌋ := (floor_value_channel sat.toNat val.toNat).symm
  have hlo : ((low8 (hsvLo sat.toNat val.toNat)).toNat : ℤ) = ⌊255 * (0 + m)⌋ := by
    rw [low8_hsvLo_toNat]
    exact (floor_lo_channel hs val.toNat).symm
  have hmid : ((low8 (hsvMid (ramp h.toNat) sat.toNat val.toNat)).toNat : ℤ) = ⌊255 * (x + m)⌋ := by
    rw [low8_hsvMid_toNat (ramp_le hh), hx]
    exact (floor_mid_channel hs val.toNat _).symm
  have hsector : sectorOf h.toNat = k := by rw [hkf, sectorOf_eq hk hf]
  have hrow : ⌊hue / 60⌋ = k := by simp only [hue, hkf, floor_hue_div_60 hf]
  simp only [p, rgb1, hsv2rgb, hsector, hrow]
  match k, hk with
  | 0, _ => simpa only [red_rgb, green_rgb, blue_rgb] using ⟨hhi, hmid, hlo⟩
  | 1, _ => simpa only [red_rgb, green_rgb, blue_rgb] using ⟨hmid, hhi, hlo⟩
  | 2, _ => simpa only [red_rgb, green_rgb, blue_rgb] using ⟨hlo, hhi, hmid⟩
  | 3, _ => simpa only [red_rgb, green_rgb, blue_rgb] using ⟨hlo, hmid, hhi⟩
  | 4, _ => simpa only [red_rgb, green_rgb, blue_rgb] using ⟨hmid, hlo, hhi⟩
  | 5, _ => simpa only [red_rgb, green_rgb, blue_rgb] using ⟨hhi, hlo, hmid⟩

end Sys2Proof.Machine

/-! The corner cases of the colour converter (rules R83, R84, R88): the order of the three channel values of HSV2RGB, the hues
of full saturation, and SCALE at 0 and at 100 percent. -/

namespace Sys2Proof.Machine

/-! ### HSV2RGB (rules R83, R84) -/

/-- The sector only picks the order of the three channel values of rule R83. -/
theorem hsv2rgb_channels_perm (h : BitVec 16) (sat val : Byte) :
    List.Perm [red (hsv2rgb h sat val), green (hsv2rgb h sat val), blue (hsv2rgb h sat val)]
      [val, low8 (hsvLo sat.toNat val.toNat), low8 (hsvMid (ramp h.toNat) sat.toNat val.toNat)] := by
  generalize hlo : low8 (hsvLo sat.toNat val.toNat) = lo
  generalize hmid : low8 (hsvMid (ramp h.toNat) sat.toNat val.toNat) = mid
  have hval : [val, mid, lo].Perm [val, lo, mid] := (List.Perm.swap lo mid []).cons val
  simp only [hsv2rgb, hlo, hmid]
  split <;> simp only [red_rgb, green_rgb, blue_rgb]
  case h_1 => exact hval
  case h_2 => exact (List.Perm.swap val mid [lo]).trans hval
  case h_3 => exact List.Perm.swap val lo [mid]
  case h_4 => exact ((List.Perm.swap val mid []).cons lo).trans (List.Perm.swap val lo [mid])
  case h_5 => exact ((List.Perm.swap val lo []).cons mid).trans ((List.Perm.swap val mid [lo]).trans hval)
  case h_6 => exact List.Perm.refl _

/-- The smallest channel value is within the middle one (rule R83, corner cases). -/
theorem hsvLo_le_hsvMid (u sat val : Nat) : hsvLo sat val ≤ hsvMid u sat val := by
  calc hsvLo sat val = val * (255 - sat) * 7680 / (255 * 7680) := (Nat.mul_div_mul_right _ _ (by decide)).symm
    _ = val * ((255 - sat) * 7680) / 1958400 := by rw [Nat.mul_assoc]
    _ ≤ hsvMid u sat val := Nat.div_le_div_right (Nat.mul_le_mul_left _ (Nat.le_add_right _ _))

/-- Every channel of a legal hue lies between `lo` and V (rule R83, corner cases). -/
theorem hsv2rgb_channel_bounds {h : BitVec 16} (hh : h.toNat < 46080) {sat val c : Byte}
    (hc : c ∈ [red (hsv2rgb h sat val), green (hsv2rgb h sat val), blue (hsv2rgb h sat val)]) :
    hsvLo sat.toNat val.toNat ≤ c.toNat ∧ c.toNat ≤ val.toNat := by
  have hs : sat.toNat ≤ 255 := Nat.le_of_lt_succ sat.isLt
  have hlo : hsvLo sat.toNat val.toNat ≤ val.toNat := hsvLo_le hs
  have hmid : hsvMid (ramp h.toNat) sat.toNat val.toNat ≤ val.toNat := hsvMid_le hs (ramp_le hh)
  have hlomid := hsvLo_le_hsvMid (ramp h.toNat) sat.toNat val.toNat
  have hval := val.isLt
  rw [(hsv2rgb_channels_perm h sat val).mem_iff] at hc
  simp only [List.mem_cons, List.not_mem_nil, or_false] at hc
  obtain rfl | rfl | rfl := hc
  · exact ⟨hlo, le_rfl⟩
  · rw [low8_toNat, Nat.mod_eq_of_lt (by omega)]
    exact ⟨le_rfl, hlo⟩
  · rw [low8_toNat, Nat.mod_eq_of_lt (by omega)]
    exact ⟨hlomid, hmid⟩

/-- Settles O18: the channels are V, `lo` and `mid` in some order, and without saturation or without value `lo` and V leave no
room between them. -/
theorem hsv2rgbChannelsLieBetweenLoAndValue : Obligations.Hsv2rgbChannelsLieBetweenLoAndValue := by
  intro h sat val hh p lo
  have hbounds : ∀ c ∈ [red p, green p, blue p], lo ≤ c.toNat ∧ c.toNat ≤ val.toNat :=
    fun _ hc => hsv2rgb_channel_bounds hh hc
  refine ⟨hbounds, (hsv2rgb_channels_perm h sat val).mem_iff.mpr List.mem_cons_self, ?_, ?_⟩
  · intro hs
    have hlo : lo = val.toNat := by simp [lo, hs]
    have hgrey : ∀ c ∈ [red p, green p, blue p], c = val := fun c hc =>
      BitVec.eq_of_toNat_eq (le_antisymm (hbounds c hc).2 (hlo ▸ (hbounds c hc).1))
    simpa using hgrey
  · intro hv
    have hblack : ∀ c ∈ [red p, green p, blue p], c = 0 := fun c hc =>
      BitVec.eq_of_toNat_eq (Nat.le_zero.mp (by simpa [hv] using (hbounds c hc).2))
    have ⟨hr, hg, hb⟩ : red p = 0 ∧ green p = 0 ∧ blue p = 0 := by simpa using hblack
    rw [← rgb_channels p, hr, hg, hb]
    decide

/-- The ramp is full only at the start of an odd sector (rules R83, R84 (c)). -/
theorem ramp_eq_sector_iff {h : Nat} (hh : h < 46080) : ramp h = 7680 ↔ h = 7680 ∨ h = 23040 ∨ h = 38400 := by
  obtain ⟨k, f, hk, hf, rfl⟩ := hue_sector hh
  rw [ramp_eq hk hf]
  split <;> omega

/-- At full saturation and value the middle channel is full just where the ramp is (rule R84 (c)). -/
theorem low8_hsvMid_full_iff {u : Nat} (hu : u ≤ 7680) :
    low8 (hsvMid u (255 : Byte).toNat (255 : Byte).toNat) = 255 ↔ u = 7680 := by
  rw [← BitVec.toNat_inj, low8_hsvMid_toNat hu]
  simp only [show (255 : Byte).toNat = 255 from rfl]
  omega

/-- Settles O17: of the channels 255, 0 and `mid` the first is full, and the third is where the ramp is; the three hues of R84
(b) are computed. -/
theorem fullySaturatedHuesHaveOneFullChannel : Obligations.FullySaturatedHuesHaveOneFullChannel := by
  intro h hh p
  have hhue {n : Nat} (hn : h.toNat = n) : h = BitVec.ofNat 16 n := by rw [← hn, BitVec.ofNat_toNat, BitVec.setWidth_eq]
  refine ⟨?_, fun hn => ?_, fun hn => ?_, fun hn => ?_⟩
  · have hlo : low8 (hsvLo (255 : Byte).toNat (255 : Byte).toNat) = 0 := by decide
    have hmid := (low8_hsvMid_full_iff (ramp_le hh)).trans (ramp_eq_sector_iff hh)
    rw [((hsv2rgb_channels_perm h 255 255).filter _).length_eq, hlo]
    generalize low8 (hsvMid (ramp h.toNat) _ _) = mid at hmid ⊢
    split
    case isTrue hfull =>
      rw [hmid.mpr hfull]
      decide
    case isFalse hfull => simpa using mt hmid.mp hfull
  all_goals
    simp only [p, hhue hn]
    decide

/-! ### SCALE (rule R88) -/

theorem scaleChannel_hundred (c : Byte) : scaleChannel c 100 = c := by
  have hc := c.isLt
  apply BitVec.eq_of_toNat_eq
  rw [scaleChannel_toNat, show (100 : Byte).toNat = 100 from rfl]
  omega

theorem scaleChannel_zero (c : Byte) : scaleChannel c 0 = 0 := by
  apply BitVec.eq_of_toNat_eq
  simp

/-- Up to 100 percent the quotient is within the channel; `low8` only makes a value smaller. -/
theorem scaleChannel_le {pct : Byte} (hpct : pct.toNat ≤ 100) (c : Byte) : (scaleChannel c pct).toNat ≤ c.toNat := by
  rw [scaleChannel_toNat]
  calc c.toNat * pct.toNat / 100 % 256 ≤ c.toNat * pct.toNat / 100 := Nat.mod_le _ _
    _ ≤ c.toNat * 100 / 100 := Nat.div_le_div_right (Nat.mul_le_mul_left _ hpct)
    _ = c.toNat := Nat.mul_div_cancel _ (by decide)

/-- Settles O21, channel by channel. -/
theorem scaleIsTheIdentityAtHundredAndNeverGrows : Obligations.ScaleIsTheIdentityAtHundredAndNeverGrows := by
  intro p
  refine ⟨?_, ?_, fun pct hpct => ?_⟩
  · simp only [scale, scaleChannel_hundred, rgb_channels]
  · simp only [scale, scaleChannel_zero]
    decide
  · simp only [red_scale, green_scale, blue_scale]
    exact ⟨scaleChannel_le hpct _, scaleChannel_le hpct _, scaleChannel_le hpct _⟩

end Sys2Proof.Machine

/-! The frame generator (rules R100 to R107): the offsets of BROFF, the frame of each pattern, and the tick that hands it
over. -/

namespace Sys2Proof.Machine

/-! ### The hue offsets of BROFF (rule R105) -/

/-- The offsets divide one turn. -/
theorem hueOffset_lt {n i : Nat} (h : i < n) : hueOffset n i < 46080 :=
  Nat.div_lt_of_lt_mul (Nat.mul_lt_mul_of_pos_right h (by decide))

@[simp] theorem hueOffset_zero (n : Nat) : hueOffset n 0 = 0 := by simp [hueOffset]

/-- From one LED to the next the offset grows by `46080 / n`, and by one more where the remainders add up to `n`. -/
theorem hueOffset_succ_sub {n : Nat} (h : 0 < n) (i : Nat) :
    hueOffset n (i + 1) - hueOffset n i = 46080 / n + if n ≤ i * 46080 % n + 46080 % n then 1 else 0 := by
  rw [hueOffset, hueOffset, Nat.succ_mul, Nat.add_div h, Nat.add_assoc, Nat.add_sub_cancel_left]

theorem hueOffset_four (i : Nat) : hueOffset 4 i = i * 11520 := by
  unfold hueOffset
  omega

/-- One conditional subtraction is enough for the sum of a phase and an offset. -/
theorem wrapHue_eq_mod {h : Nat} (hh : h < 2 * 46080) : wrapHue h = h % 46080 := by
  unfold wrapHue
  split <;> omega

theorem wrapHue_add_hueOffset {n i phase : Nat} (hi : i < n) (hphase : phase < 46080) :
    wrapHue (phase + hueOffset n i) = (phase + hueOffset n i) % 46080 := by
  have hoff := hueOffset_lt hi
  exact wrapHue_eq_mod (by omega)

/-- Settles O41: an offset grows by `46080 / n` or one more, and a legal phase and an offset stay within two turns. -/
theorem broffOffsetsAreEvenlySpaced : Obligations.BroffOffsetsAreEvenlySpaced := by
  intro n i hi
  rw [hueOffset_succ_sub (Nat.zero_lt_of_lt hi)]
  refine ⟨hueOffset_lt hi, hueOffset_zero n, Nat.le_add_right _ _, ?_, fun _ => wrapHue_add_hueOffset hi, ?_⟩
  · split <;> omega
  · rintro rfl
    exact hueOffset_four i

/-! ### The frame of each pattern (rules R101, R102, R104 to R106); with no LED no operand is excluded -/

theorem frameBy_off (p : Patr) (phase : BitVec 18) (n : Nat) : frameBy pxOff p phase n = .ok (List.replicate n 0) :=
  frameBy_uniform fun _ _ => rfl

theorem frameBy_static (p : Patr) (phase : BitVec 18) (n : Nat) :
    frameBy pxStatic p phase n = .ok (List.replicate n (p.aColor.get 0)) :=
  frameBy_uniform fun _ _ => rfl

theorem frameBy_brsync {p : Patr} {phase : BitVec 18} {n : Nat} (h : n = 0 ∨ phase.toNat < 46080) :
    frameBy pxBrsync p phase n = .ok (List.replicate n (huePx p phase.toNat)) :=
  frameBy_uniform fun _ hj => pxBrsync_ok (h.resolve_left (Nat.ne_zero_of_lt hj))

/-- The pixel of FLASH: A_COLOR[0] in the on part of the period, else zero. -/
def flashPixel (p : Patr) (phase : BitVec 18) : Pixel :=
  if phase.toNat % (p.aOn.toNat + p.aOff.toNat) < p.aOn.toNat then p.aColor.get 0 else 0

theorem frameBy_flash {p : Patr} {phase : BitVec 18} {n : Nat} (h : n = 0 ∨ 1 ≤ p.aOn.toNat + p.aOff.toNat) :
    frameBy pxFlash p phase n = .ok (List.replicate n (flashPixel p phase)) :=
  frameBy_uniform fun _ hj => pxFlash_ok (h.resolve_left (Nat.ne_zero_of_lt hj))

/-- The pixel of BROFF at LED `i` of `n`, its hue the remainder by one turn. -/
def broffPixel (p : Patr) (phase : BitVec 18) (n i : Nat) : Pixel :=
  huePx p ((phase.toNat + i * 46080 / n) % 46080)

theorem frameBy_broff {p : Patr} {phase : BitVec 18} {n : Nat} (h : n = 0 ∨ phase.toNat < 46080) :
    frameBy pxBroff p phase n = .ok ((List.range n).map (broffPixel p phase n)) := by
  apply frameBy_ok
  intro i hi
  have hphase : phase.toNat < 46080 := h.resolve_left (Nat.ne_zero_of_lt hi)
  rw [pxBroff_ok hphase, wrapHue_add_hueOffset hi hphase]
  rfl

/-- Settles O39: the multiplexer picks the pixel function by A_PAT, and each of the four repeats one pixel. -/
theorem uniformPatternsRepeatOnePixel : Obligations.UniformPatternsRepeatOnePixel := by
  intro p phase n
  refine ⟨fun hp => ?_, fun hp => ?_, fun hp hphase => ?_, fun hp hperiod => ?_⟩
  · rw [genFrame_off hp]
    exact frameBy_off p phase n
  · rw [genFrame_static hp]
    exact frameBy_static p phase n
  · rw [genFrame_brsync hp]
    exact frameBy_brsync (.inr hphase)
  · rw [genFrame_flash hp]
    exact frameBy_flash (.inr hperiod)

/-- Settles O40: the frame lists the bands of WIPE, which at most 16 colours keep inside the table, and the hues of BROFF. -/
theorem bandedPatternsComputeEachPixel : Obligations.BandedPatternsComputeEachPixel := by
  intro p phase n
  refine ⟨fun hp h1 h16 => ?_, fun hp hphase => ?_⟩
  · have hlt (i : Nat) : (i + phase.toNat) % p.aNcol.toNat < 16 := Nat.lt_of_lt_of_le (Nat.mod_lt _ h1) h16
    rw [genFrame_wipe hp, frameBy_wipe fun i _ => ⟨h1, hlt i⟩]
    exact ⟨_, rfl, by simp, fun i k hi hk => by simp [hi, wipePixel_eq hk]⟩
  · rw [genFrame_broff hp, frameBy_broff (.inr hphase)]
    exact ⟨_, rfl, by simp, fun i hi => by simp [hi, broffPixel, huePx]⟩

/-! ### The tick (rule R125) -/

/-- Settles O28: S_TICK hands over the frame of zero pixels, which no operand touches. -/
theorem offTickEmitsZeros : Obligations.OffTickEmitsZeros :=
  fun s hd hc => sTick_emits hd hc (frameBy_off s.patr s.phase _)

/-- Settles O29: S_TICK hands over the frame of A_COLOR[0]. -/
theorem staticTickEmitsTheColour : Obligations.StaticTickEmitsTheColour :=
  fun s hd hc => sTick_emits hd hc (frameBy_static s.patr s.phase _)

/-- Settles O31: S_TICK hands over the frame of the one hue PHASE. -/
theorem brsyncTickEmitsOneHue : Obligations.BrsyncTickEmitsOneHue :=
  fun _ hd hc h => sTick_emits hd hc (frameBy_brsync (h.imp_left (congrArg BitVec.toNat)))

/-- Settles O32: S_TICK hands over the frame that lists the pixels `broffPixel` by index. -/
theorem broffTickSpreadsTheHues : Obligations.BroffTickSpreadsTheHues := by
  intro s hd hc h
  have hframe := frameBy_broff (p := s.patr) (h.imp_left (congrArg BitVec.toNat))
  exact ⟨_, sTick_emits hd hc hframe, by simp, fun i hi => by simp [hi, broffPixel, huePx]⟩

/-- Settles O33: S_TICK hands over the frame of `flashPixel`. -/
theorem flashTickIsOnOrOff : Obligations.FlashTickIsOnOrOff :=
  fun _ hd hc h => sTick_emits hd hc (frameBy_flash (h.imp_left (congrArg BitVec.toNat)))

/-- Settles O37: the sequencer's turn is S_TICK with GenFrame past its move, and taking the move changes the script only. -/
theorem sequencerTurnHandsOverGenFrame : Obligations.SequencerTurnHandsOverGenFrame := by
  intro s f hd hs
  rw [step_tick hs]
  exact ⟨fun hc => sTick_cancelled (s := advance s) hd hc, fun hc hf => sTick_emits (s := advance s) hd hc hf⟩

end Sys2Proof.Machine

/-! The host commands, the answers of the transport, the timer and the runs of several moves (rules R120 to R130, R141, R168,
R170). -/

namespace Sys2Proof.Machine

/-! ### START and CANCEL (rules R122, R123, R141) -/

theorem exec_start (s : State) : exec .start s = .next (startCmd s) := rfl

theorem exec_cancel (s : State) : exec .cancel s = .next (cancelCmd s) := rfl

theorem constructCheck_patternCode {c : Cfg} (h : 6 ≤ c.pat.toNat) : constructCheck c = .patternCode := if_pos h

theorem constructCheck_colourCount {c : Cfg} (hp : c.pat = 2) (hn : c.ncol.toNat = 0 ∨ 16 < c.ncol.toNat) :
    constructCheck c = .colourCount := by
  have hlegal : ¬ 6 ≤ c.pat.toNat := by rw [hp]; decide
  rw [constructCheck, if_neg hlegal, if_pos ⟨hp, hn⟩]

theorem constructCheck_flashPeriod {c : Cfg} (hp : c.pat = 5) (hn : c.onTicks.toNat + c.offTicks.toNat = 0) :
    constructCheck c = .flashPeriod := by
  have hlegal : ¬ 6 ≤ c.pat.toNat := by rw [hp]; decide
  have hnotWipe : c.pat ≠ 2 := by rw [hp]; decide
  rw [constructCheck, if_neg hlegal, if_neg fun h => hnotWipe h.1, if_pos ⟨hp, hn⟩]

/-- START in CONFIG ends the run with the cause of the failing check (rules R141, R144). -/
theorem exec_start_fails {s : State} {c : Cause} (hd : s.drv = .config) (h : constructCheck s.cfg = c) (hc : c ≠ .noCause) :
    exec .start s = .next (raiseFatal .construct c s) := by
  subst h
  rw [exec_start, startCmd_fails hd hc]

/-- Settles O25: the check names its cause, and START ends the run with it. -/
theorem startReportsTheFirstFailingCheck : Obligations.StartReportsTheFirstFailingCheck := by
  intro s hd
  refine ⟨fun h => ?_, fun hp hn => ?_, fun hp hn => ?_⟩
  · exact exec_start_fails hd (constructCheck_patternCode h) (by decide)
  · exact exec_start_fails hd (constructCheck_colourCount hp hn) (by decide)
  · exact exec_start_fails hd (constructCheck_flashPeriod hp hn) (by decide)

/-- Settles O26: the driver state is tested before anything else. -/
theorem startOutsideConfigIsRefused : Obligations.StartOutsideConfigIsRefused :=
  fun _ hd => congrArg Host.Outcome.next (startCmd_refused hd)

/-- The driver states in which CANCEL is latched (rule R123). -/
theorem Drv.active_iff {d : Drv} : d.active = true ↔ d = .opening ∨ d = .tick ∨ d = .emit ∨ d = .wait := by
  cases d <;> decide

theorem exec_cancel_latched {s : State} (ha : s.drv.active = true) : exec .cancel s = .next (setCancelPend s) := by
  obtain ⟨_, h⟩ | ⟨hn, _⟩ := cancelCmd_cases s
  · rw [exec_cancel, h]
  · simp [ha] at hn

theorem exec_cancel_refused {s : State} (ha : s.drv.active = false) : exec .cancel s = .next (setWerr s) := by
  obtain ⟨hn, _⟩ | ⟨_, h⟩ := cancelCmd_cases s
  · simp [ha] at hn
  · rw [exec_cancel, h]

/-- Settles O27: the four states of a run are the active ones, and CONFIG and TERMINATED are not. -/
theorem cancelIsLatchedOrRefused : Obligations.CancelIsLatchedOrRefused := by
  intro s
  refine ⟨fun hd => exec_cancel_latched (Drv.active_iff.mpr hd), ?_⟩
  rintro (hd | hd) <;> exact exec_cancel_refused (by rw [hd]; rfl)

/-! ### The patterns as S_TICK (rule R125, log entry 5) -/

/-- Each of the six patterns is S_TICK with its own pixel function. -/
theorem exec_pattern {i : Instr} (hi : i ∈ [Instr.off, .static, .wipe, .brsync, .broff, .flash]) :
    ∃ px, exec i = sTick (frameBy px) := by
  simp only [List.mem_cons, List.not_mem_nil, or_false] at hi
  obtain rfl | rfl | rfl | rfl | rfl | rfl := hi
  · exact ⟨pxOff, rfl⟩
  · exact ⟨pxStatic, rfl⟩
  · exact ⟨pxWipe, rfl⟩
  · exact ⟨pxBrsync, rfl⟩
  · exact ⟨pxBroff, rfl⟩
  · exact ⟨pxFlash, rfl⟩

/-- Settles O34: S_TICK tests the pending cancellation before it asks for a frame. -/
theorem pendingCancellationWinsOverEveryPattern : Obligations.PendingCancellationWinsOverEveryPattern := by
  intro s i hi hd hc
  obtain ⟨px, hpx⟩ := exec_pattern hi
  rw [hpx]
  exact sTick_cancelled hd hc

/-- Settles O35: S_TICK is enabled in TICK only. -/
theorem patternOutsideItsTickPasses : Obligations.PatternOutsideItsTickPasses := by
  intro s i hi hd
  obtain ⟨px, hpx⟩ := exec_pattern hi
  rw [hpx, sTick_passes hd]

/-! ### The answers and the timer (rules R124, R126 to R128) -/

theorem tOpen_ok {s : State} (hd : s.drv = .opening) : tOpen .ok s = { emit (.openAns .ok) s with drv := .tick } := if_pos hd

theorem tOpen_err {s : State} (hd : s.drv = .opening) :
    tOpen .err s = raiseFatal .openFailed .noCause (emit (.openAns .err) s) := if_pos hd

theorem tmr_fires {s : State} (hd : s.drv = .wait) : tmr s = { s with drv := .tick } := if_pos hd

/-- Settles O42: T_OPEN is enabled in OPENING, and taking the move changes the script only. -/
theorem openAnswerStartsOrEndsTheRun : Obligations.OpenAnswerStartsOrEndsTheRun := by
  intro s rest hd
  refine ⟨fun hs => ?_, fun hs => ?_⟩
  · rw [step_tOpen hs, advance_of_script hs]
    exact congrArg Host.Outcome.next (tOpen_ok hd)
  · rw [step_tOpen hs, advance_of_script hs]
    exact congrArg Host.Outcome.next (tOpen_err hd)

/-- Settles O43, by the equation of each branch of T_ANS; the new phase is `nextPhase`. -/
theorem transmitAnswerAdvancesOrEndsTheRun : Obligations.TransmitAnswerAdvancesOrEndsTheRun := by
  intro s rest hd
  refine ⟨fun hs => ?_, fun hs hp => ?_, fun hs hp hpos => ?_⟩
  · rw [step_tAns hs, advance_of_script hs]
    exact tAns_err hd
  · rw [step_tAns hs, advance_of_script hs]
    exact tAns_off hd hp
  · have h0 : s.patr.aPeriod ≠ 0 := fun hz => by simp [hz] at hpos
    refine ⟨nextPhase s.patr s.phase, nextPhase_toNat hpos s.phase, ?_⟩
    rw [step_tAns hs, advance_of_script hs]
    exact tAns_advances hd hp h0

/-- Settles O44: TMR is enabled in WAIT and writes DRV only. -/
theorem timerOnlyReturnsToTheTick : Obligations.TimerOnlyReturnsToTheTick := by
  intro s rest hd hs
  rw [step_tmr hs, advance_of_script hs]
  exact congrArg Host.Outcome.next (tmr_fires hd)

/-- Settles O58: the advance is a sum modulo the period, so a step counts as its remainder by one turn. -/
theorem hueRateActsModuloOneTurn : Obligations.HueRateActsModuloOneTurn := by
  intro p q phase hp hq hphase
  have hnext {r : Patr} (hr : r.aPeriod.toNat = 46080) :
      (nextPhase r phase).toNat = (phase.toNat + r.aStep.toNat) % 46080 := by
    rw [nextPhase_toNat (by omega), hr]
  refine ⟨fun hstep => BitVec.eq_of_toNat_eq ?_, fun hstep => BitVec.eq_of_toNat_eq ?_⟩
  · rw [hnext hp, hnext hq]
    exact Nat.ModEq.add_left phase.toNat hstep
  · rw [hnext hp, hstep, Nat.add_mod_right, Nat.mod_eq_of_lt hphase]

/-! ### The transitions of DRV (rules R120, R129, R147) -/

/-- Settles O48: every `Move` that writes DRV is one row of the table, picked by the number of rows above it; RESET is the
last row. -/
theorem driverStateFollowsTheTransitionTable : Obligations.DriverStateFollowsTheTransitionTable := by
  intro s t h hne move
  obtain ⟨hr, rfl⟩ | ⟨_, m⟩ := step_move h
  · have he : s.script.head? = some .reset := by simpa [resetNext] using hr
    iterate 10 right
    exact ⟨rfl, he⟩
  · cases m with
    | pass | answered | convWritten | scaleWritten | configured | refused | cancelLatched => exact absurd rfl hne
    | started he hd => exact .inl ⟨hd, rfl, he⟩
    | constructFailed he hd hc => exact .inr (.inl ⟨hd, rfl, rfl, hc, he⟩)
    | opened he hd =>
      iterate 2 right
      exact .inl ⟨hd, rfl, he⟩
    | openFailed he hd =>
      iterate 3 right
      exact .inl ⟨hd, rfl, rfl, he⟩
    | tickCancelled he hd hc =>
      iterate 4 right
      exact .inl ⟨hd, rfl, hc, rfl, he⟩
    | framed _ he hd hc =>
      iterate 5 right
      exact .inl ⟨hd, rfl, hc, he⟩
    | transFailed he hd =>
      iterate 6 right
      exact .inl ⟨hd, rfl, rfl, he⟩
    | offDone he hd hp =>
      iterate 7 right
      exact .inl ⟨hd, rfl, rfl, hp, he⟩
    | waited he hd hp =>
      iterate 8 right
      exact .inl ⟨hd, rfl, hp, he⟩
    | fired he hd =>
      iterate 9 right
      exact .inl ⟨hd, rfl, he⟩

/-- Settles O49: in TERMINATED the moves left over are host accesses and moves that pass, and these write none of the eight. -/
theorem terminatedIsLeftOnlyByReset : Obligations.TerminatedIsLeftOnlyByReset := by
  intro s t hd hr h
  cases step_move_of_not_reset hr h with
  | pass | answered | convWritten | scaleWritten | refused => exact ⟨hd, rfl, rfl, rfl, rfl, rfl, rfl, rfl⟩
  | cancelLatched _ ha => simp [hd, Drv.active] at ha
  | configured _ hd' | started _ hd' | constructFailed _ hd' | tickCancelled _ hd' | framed _ _ hd' | opened _ hd'
  | openFailed _ hd' | transFailed _ hd' | offDone _ hd' | waited _ hd' | fired _ hd' => simp [hd] at hd'

/-! ### Runs of several moves (rules R130, R168) -/

/-- A run takes its first step and goes on from there. -/
theorem run_succ {s t : State} (h : step s = .next t) (k : Nat) : core.run (k + 1) s = core.run k t := by
  have hstep : core.step s = .next t := h
  simp only [Host.Core.run, hstep]

/-- Settles O59: the three steps are those of O37, O43 and O44, and the invariant gives the frame and the period. -/
theorem oneTickIsTickAnswerTimer : Obligations.OneTickIsTickAnswerTimer := by
  intro s rest hinv hd hc hp hs
  have ha : s.drv.active = true := by rw [hd]; rfl
  have hcon := hinv.constructed ha
  obtain ⟨f, hf⟩ := hcon.genFrame_ok (hinv.phaseInPeriod ha) s.patr.aNled.toNat
  obtain ⟨_, hemits⟩ := sequencerTurnHandsOverGenFrame s f hd (.inr ⟨_, hs⟩)
  have htick := hemits hc hf
  rw [hs, List.tail_cons] at htick
  obtain ⟨_, _, hadvances⟩ := transmitAnswerAdvancesOrEndsTheRun
    { s with drv := .emit, pix := 0, history := s.history ++ [.frameOut f], script := .tAns .ok :: .tmr :: rest }
    (.tmr :: rest) rfl
  obtain ⟨ph, hph, hans⟩ := hadvances rfl hp hcon.periodPositive
  have hrun : core.run 3 s = _ :=
    (run_succ htick 2).trans ((run_succ hans 1).trans (run_succ (timerOnlyReturnsToTheTick _ rest rfl rfl) 0))
  exact ⟨f, _, hf, hrun, rfl, by simp, hph, rfl, rfl, rfl⟩

/-- Settles O60: the CANCEL of O27 is latched, the timer of O44 leads to the tick, and the turn of O37 honours it. -/
theorem cancelInTheWaitEndsAtTheNextTick : Obligations.CancelInTheWaitEndsAtTheNextTick := by
  intro s rest hd hs
  have hcancel : step s = .next { s with cancelPend := true, script := .tmr :: .tick :: rest } := by
    obtain ⟨_, hwrite⟩ := hostAccessHasTheEffectOfItsRdOrWr s (.tmr :: .tick :: rest) 0 2
    rw [hwrite hs]
    exact exec_cancel_latched (by rw [hd]; rfl)
  have htmr := timerOnlyReturnsToTheTick
    { s with cancelPend := true, script := .tmr :: .tick :: rest } (.tick :: rest) hd rfl
  obtain ⟨hcancels, _⟩ := sequencerTurnHandsOverGenFrame
    { s with cancelPend := true, drv := .tick, script := .tick :: rest } [] rfl (.inr ⟨rest, rfl⟩)
  refine ⟨run_succ hcancel 0, ?_⟩
  rw [run_succ hcancel, run_succ htmr, run_succ (hcancels rfl)]
  rfl

end Sys2Proof.Machine
